-- ==== Sys2Proof/Config.lean ====
section
/-! DEFINITION. Config: the parameters of the block (spec/00_scope.md R9) that fix a width, and the free values.
R10 leaves no parameter open. The polynomial, the iteration count and the conversion constants of R9 stand with the
operations that use them (Machine/Crc8.lean, Machine/Conversion.lean), where a repair can mend them.
`ROUNDING` is the rounding of Machine/Binary64.lean and `SATURATION_POLICY` (pass-through) is how
Machine/Requests.lean delivers the converted value (R94). -/

namespace Sys2Proof.Config

/-- `RAW_WIDTH` (R9). -/
def rawWidth : Nat := 16
/-- `CRC_WIDTH` (R9). -/
def crcWidth : Nat := 8
/-- `CRC_REG_WIDTH` (R9): the working register without the bit that leaves it (R70). -/
def crcRegWidth : Nat := 16
/-- `OP_WIDTH` (R9). -/
def opWidth : Nat := 8
/-- `REQUEST_WIDTH` (R9, R53): every request is this long. -/
def requestWidth : Nat := 32
/-- `STATUS_WIDTH` (R9, R22). -/
def statusWidth : Nat := 3
/-- `KIND_WIDTH` (R9, R23). -/
def kindWidth : Nat := 2
/-- The width of `VALUE` as a word (R40, R81). -/
def valueWidth : Nat := 64

/-- The NaN an IEEE 754 addition gives: sign and payload are FREE VALUES (no body), see log 6 (DESIGN CHOICE, safe).
No conversion reaches it (spec/41_conversion.md R92). -/
opaque addNaN : BitVec 64 → BitVec 64 → BitVec 64
/-- The NaN a multiplication gives: a free value, as `addNaN`. -/
opaque mulNaN : BitVec 64 → BitVec 64 → BitVec 64
/-- The NaN a division gives: a free value, as `addNaN`. -/
opaque divNaN : BitVec 64 → BitVec 64 → BitVec 64

end Sys2Proof.Config
end

