-- ==== Sys2Proof/Word.lean ====
section
/-! DEFINITION. Word: the bit-vector types of the block. Bit 0 is the least significant bit (spec/00_scope.md R11). -/

namespace Sys2Proof

/-- A byte of a measurement response, or an operation selector (spec/30_encoding.md R55). -/
abbrev Byte := BitVec 8

/-- A request word (spec/30_encoding.md R53). -/
abbrev Word := BitVec 32

/-- A raw code, unsigned (spec/00_scope.md R18, `RAW_WIDTH` of R9). -/
abbrev Raw := BitVec 16

/-- The CRC working register, with the bit that a left shift moves out of its 16 bits
(spec/40_crc8.md R68: `W : 17 bits`). -/
abbrev CrcReg := BitVec 17

/-- An IEEE 754 binary64 datum, held as its 64-bit encoding, so `bits64` is the identity
(spec/20_memory.md R40, spec/41_conversion.md R81; log 4). -/
abbrev Binary64 := BitVec 64

end Sys2Proof
end

