-- ==== Sys2Proof/Syntax.lean ====
section
/-! DEFINITION. Syntax: the requests of spec/opcode_table.json, one constructor a row. -/

namespace Sys2Proof

/-- The legal requests (spec/30_encoding.md R60). Their operands are the three received bytes, in the order
received (R55); every value of each is legal (R57). An illegal request has no row and no constructor. -/
inductive Instr where
  /-- CHKRH: check the CRC, and on a match convert to relative humidity (spec/42_requests.md R99). -/
  | chkrh (msb lsb crc : Byte)
  /-- CHKT: check the CRC, and on a match convert to temperature (spec/42_requests.md R100). -/
  | chkt (msb lsb crc : Byte)
  deriving DecidableEq, Repr

end Sys2Proof
end

