-- ==== Sys2Proof/WellFormed.lean ====
section
/-! DEFINITION. WellFormed: which operation selectors, operands and literals the spec admits. -/

namespace Sys2Proof

/-- The OP field alone decides whether a request is legal (spec/30_encoding.md R57, R60, R61). -/
def legalOp (op : Byte) : Bool := op == 0xE5 || op == 0xE3

/-- A request word is well formed when its OP field, bits 31:24, is legal; its other bits are free (R57). -/
def wordWellFormed (w : Word) : Bool := legalOp (w.extractLsb' 24 8)

/-- Every legal request is well formed: each operand is a byte, and every byte is legal (R57). -/
def instrWellFormed : Instr → Bool
  | .chkrh _ _ _ => true
  | .chkt _ _ _ => true

/-- An assembler operand literal is an unsigned 8-bit number: "A literal above 255 is an assembly error" (R64). -/
def byteLiteralOk (n : Nat) : Bool := n < 2 ^ 8

/-- The RAW operand of a pseudo-instruction is "a 16-bit literal" (R65). -/
def rawLiteralOk (n : Nat) : Bool := n < 2 ^ 16

end Sys2Proof
end

