-- ==== Sys2Proof/Decode.lean ====
section
/-! DEFINITION. Decode: the fields of a request word, the decoder, total over all words, and the encoder
(spec/30_encoding.md). -/

namespace Sys2Proof

/-- What the decoder answers: a legal request, or ILLEGAL with the offending selector (R63). -/
inductive Decoded where
  /-- A request of the opcode map (R60). -/
  | legal (i : Instr)
  /-- No operation has this selector (R61). The block accepts the request and reports ILLEGAL_OP. -/
  | illegal (op : Byte)
  deriving DecidableEq, Repr

/-- OP is bits 31:24 (R55). -/
def opField (w : Word) : Byte := w.extractLsb' 24 8
/-- MSB is bits 23:16 (R55). -/
def msbField (w : Word) : Byte := w.extractLsb' 16 8
/-- LSB is bits 15:8 (R55). -/
def lsbField (w : Word) : Byte := w.extractLsb' 8 8
/-- CRC is bits 7:0 (R55). -/
def crcField (w : Word) : Byte := w.extractLsb' 0 8

/-- The selector of CHKRH, the sensor's trigger-humidity command (R58, R60). -/
def opChkrh : Byte := 0xE5
/-- The selector of CHKT, the sensor's trigger-temperature command (R58, R60). -/
def opChkt : Byte := 0xE3

/-- Decoding is total, in the order R63 gives. -/
def decode (w : Word) : Decoded :=
  if opField w = opChkrh then .legal (.chkrh (msbField w) (lsbField w) (crcField w))
  else if opField w = opChkt then .legal (.chkt (msbField w) (lsbField w) (crcField w))
  else .illegal (opField w)

/-- `w = OP ++ MSB ++ LSB ++ CRC` (R55), for any selector, legal or not (R65 `.req`). -/
def packRequest (op msb lsb crc : Byte) : Word := op ++ msb ++ lsb ++ crc

/-- The word of a legal request (R55, R60, R64). -/
def encode : Instr → Word
  | .chkrh msb lsb crc => packRequest opChkrh msb lsb crc
  | .chkt msb lsb crc => packRequest opChkt msb lsb crc

/-- The host's view of the decoder: the instruction read from the low `REQUEST_WIDTH` bits of `w`, of which the
opcode table gives `nbits` (the bits above are 0). A request is one 32-bit word, bit 31 the most significant. -/
def decodeTableWord (nbits w : Nat) : Option Instr :=
  match decode (BitVec.ofNat 32 (w % 2 ^ nbits)) with
  | .legal i => some i
  | .illegal _ => none

end Sys2Proof
end

