-- ==== Sys2Proof/Machine/Binary64.lean ====
section
/-! DEFINITION. Binary64: IEEE 754 binary64 data and the operations of spec/00_scope.md R15, rounding to nearest with
ties to even (spec/41_conversion.md R81, R82). PRESUMED where the spec says "from general knowledge" (log 5).

Every finite datum is a whole number of units of 2^-1074, the smallest subnormal. An operation computes its exact
result in these units, with whole numbers, and rounds once. -/

namespace Sys2Proof.Machine

/-- The sign, bit 63 (R81). -/
def f64Neg (v : Binary64) : Bool := v.getLsbD 63
/-- The biased exponent, bits 62:52 (R81). -/
def f64Exp (v : Binary64) : Nat := (v.extractLsb' 52 11).toNat
/-- The fraction, bits 51:0 (R81). -/
def f64Frac (v : Binary64) : Nat := (v.extractLsb' 0 52).toNat

/-- An infinity: exponent all ones, fraction zero. -/
def f64IsInf (v : Binary64) : Bool := f64Exp v == 2047 && f64Frac v == 0
/-- A NaN: exponent all ones, fraction not zero. -/
def f64IsNaN (v : Binary64) : Bool := f64Exp v == 2047 && f64Frac v != 0
/-- A zero of either sign. -/
def f64IsZero (v : Binary64) : Bool := f64Exp v == 0 && f64Frac v == 0
/-- A finite normal number (R92): an exponent that is neither all zeros nor all ones. -/
def f64IsNormal (v : Binary64) : Bool := f64Exp v != 0 && f64Exp v != 2047

/-- How many units of 2^-1074 make 1. -/
def f64Unit : Nat := 2 ^ 1074

/-- The magnitude of a finite datum in units of 2^-1074. -/
def f64Mag (v : Binary64) : Nat :=
  if f64Exp v = 0 then f64Frac v else (2 ^ 52 + f64Frac v) * 2 ^ (f64Exp v - 1)

/-- A finite datum in units of 2^-1074, with its sign. -/
def f64Int (v : Binary64) : Int := if f64Neg v then -(f64Mag v : Int) else f64Mag v

/-- The real number that a finite datum is (R81). -/
def f64Value (v : Binary64) : ℚ := (f64Int v : ℚ) / (f64Unit : ℚ)

/-- The encoding of a sign and a magnitude encoding (exponent and fraction, 63 bits). -/
def packF64 (neg : Bool) (mag : Nat) : Binary64 := BitVec.ofNat 64 ((if neg then 2 ^ 63 else 0) + mag)

/-- The exponent and fraction of an infinity. -/
def f64InfMag : Nat := 2047 * 2 ^ 52

/-- `num / den` rounded to a whole number: to nearest, ties to even (R82). -/
def roundDiv (num den : Nat) : Nat :=
  let q := num / den
  let r := num % den
  if den < 2 * r || (2 * r == den && q % 2 == 1) then q + 1 else q

/-- How many bits below the unit place of `2^-1074` lie outside the 53 bits kept of `num / den` units: 0 for a
subnormal number and for the smallest normal ones. -/
def roundShift (num den : Nat) : Nat := (num / den).log2 - 52

/-- Exponent and fraction of the magnitude `num / den` (in units of 2^-1074) rounded to nearest, ties to even: with
the significand `q` in [2^52, 2^53] at shift `k`, the biased exponent is `k + 1` and the fraction `q - 2^52`, so the
encoding is `k * 2^52 + q`; a carry out of the significand moves into the exponent, and a subnormal is `q` itself.
A magnitude that rounds past the largest finite number is an infinity. -/
def roundMag (num den : Nat) : Nat :=
  let k := roundShift num den
  min (k * 2 ^ 52 + roundDiv num (den * 2 ^ k)) f64InfMag

/-- The datum nearest to `± num / den` units of 2^-1074. -/
def roundF64 (neg : Bool) (num den : Nat) : Binary64 := packF64 neg (roundMag num den)

/-- `f64(lit)` (R15) of the decimal literal `± num / den`: the datum nearest to it. -/
def f64 (neg : Bool) (num den : Nat) : Binary64 := roundF64 neg (num * f64Unit) den

/-- `to_f64(n)` (R15, R84). -/
def toF64 (n : Nat) : Binary64 := roundF64 false (n * f64Unit) 1

/-- A quiet NaN; its sign and payload are the free value given (log 6). -/
def quietNaN (free : Binary64) : Binary64 := free ||| 0x7FF8000000000000

/-- `fadd(a, b)` (R15): the exact sum rounded once. An exact zero sum of unlike signs is +0. -/
def fadd (a b : Binary64) : Binary64 :=
  if f64IsNaN a || f64IsNaN b then quietNaN (Config.addNaN a b)
  else if f64IsInf a then
    if f64IsInf b && f64Neg a != f64Neg b then quietNaN (Config.addNaN a b) else a
  else if f64IsInf b then b
  else
    let sum := f64Int a + f64Int b
    if sum = 0 then packF64 (f64Neg a && f64Neg b) 0
    else roundF64 (decide (sum < 0)) sum.natAbs 1

/-- `fmul(a, b)` (R15): the exact product rounded once. -/
def fmul (a b : Binary64) : Binary64 :=
  let neg := f64Neg a ^^ f64Neg b
  if f64IsNaN a || f64IsNaN b then quietNaN (Config.mulNaN a b)
  else if f64IsInf a || f64IsInf b then
    if f64IsZero a || f64IsZero b then quietNaN (Config.mulNaN a b) else packF64 neg f64InfMag
  else roundF64 neg (f64Mag a * f64Mag b) f64Unit

/-- `fdiv(a, b)` (R15): the exact quotient rounded once. -/
def fdiv (a b : Binary64) : Binary64 :=
  let neg := f64Neg a ^^ f64Neg b
  if f64IsNaN a || f64IsNaN b then quietNaN (Config.divNaN a b)
  else if f64IsInf a then
    if f64IsInf b then quietNaN (Config.divNaN a b) else packF64 neg f64InfMag
  else if f64IsInf b then packF64 neg 0
  else if f64IsZero b then
    if f64IsZero a then quietNaN (Config.divNaN a b) else packF64 neg f64InfMag
  else roundF64 neg (f64Mag a * f64Unit) (f64Mag b)

end Sys2Proof.Machine
end

