-- ==== Sys2Proof/Machine/Conversion.lean ====
section
/-! DEFINITION. Conversion: a raw code to relative humidity or temperature (spec/41_conversion.md). Nothing is clamped
(R94) and no bit is masked (R95). -/

namespace Sys2Proof.Machine

/-- RH_OFF, the literal -6.0 (R83). -/
def rhOff : Binary64 := f64 true 6 1
/-- RH_SCALE, the literal 125.0 (R83). -/
def rhScale : Binary64 := f64 false 125 1
/-- T_OFF, the literal -46.85 (R83). -/
def tOff : Binary64 := f64 true 4685 100
/-- T_SCALE, the literal 175.72 (R83). -/
def tScale : Binary64 := f64 false 17572 100
/-- DIV, the literal 65536.0 (R83). -/
def divisor : Binary64 := f64 false 65536 1

/-- `q(raw)` (R85), the parenthesis of both formulas: the raw code is read as unsigned (R84). -/
def quotient (raw : Raw) : Binary64 := fdiv (toF64 raw.toNat) divisor

/-- The humidity formula from its quotient on: multiply, then add (R82, R86). -/
def rhOfQuotient (q : Binary64) : Binary64 := fadd rhOff (fmul rhScale q)

/-- The temperature formula from its quotient on: multiply, then add, each rounded once (R82, R89). -/
def tempOfQuotient (q : Binary64) : Binary64 := fadd tOff (fmul tScale q)

/-- `rh(raw)` (R86), in %RH. -/
def rh (raw : Raw) : Binary64 := rhOfQuotient (quotient raw)

/-- `temp(raw)` (R89), in °C. -/
def temp (raw : Raw) : Binary64 := tempOfQuotient (quotient raw)

end Sys2Proof.Machine
end

