-- ==== Sys2Proof/Machine/Crc8.lean ====
section
/-! DEFINITION. Crc8: the CRC-8 of a raw code and the check (spec/40_crc8.md). Nothing is reflected (R73). -/

namespace Sys2Proof.Machine

/-- `POLY`, a 17-bit constant (R67). -/
def poly : CrcReg := 0x13100

/-- `CRC_ITERATIONS` (spec/00_scope.md R9). -/
def crcIterations : Nat := 16

/-- One iteration of R68: the top bit, bit 15, is tested before the shift (R69); the XOR applies to the shifted
value. -/
def crcStep (w : CrcReg) : CrcReg :=
  if w.getLsbD 15 then (w <<< 1) ^^^ poly else w <<< 1

/-- `crc8(raw)` (R68): the working register starts as the raw code (R71) and the result is its bits 15:8. -/
def crc8 (raw : Raw) : Byte := (Nat.iterate crcStep crcIterations (raw.setWidth 17)).extractLsb' 8 8

/-- `crc_ok(raw, crc_rx)` (R76): all eight bits are compared. -/
def crcOk (raw : Raw) (crcRx : Byte) : Bool := crc8 raw == crcRx

/-- The same iteration in a register of exactly 16 bits: `trunc_16(W << 1) ^ (top ? 0x3100 : 0)` (R70). -/
def crcStep16 (w : Raw) : Raw := (w <<< 1) ^^^ (if w.getLsbD 15 then 0x3100 else 0)

/-- A 16-bit implementation that applies the full literal to the shifted 16-bit value and truncates afterwards
(R70). -/
def crcStepTrunc (w : Raw) : Raw :=
  let shifted : CrcReg := w.setWidth 17 <<< 1
  (if w.getLsbD 15 then shifted ^^^ poly else shifted).setWidth 16

/-- R68 as written in a register of any width `n`; R70 speaks of `n` at least 17. -/
def crcStepWide (n : Nat) (w : BitVec n) : BitVec n :=
  if w.getLsbD 15 then (w <<< 1) ^^^ poly.setWidth n else w <<< 1

/-- One shift of the byte-wise register (R72). -/
def crcByteShift (c : Byte) : Byte := if c.getLsbD 7 then (c <<< 1) ^^^ 0x31 else c <<< 1

/-- `crc_byte_step(c, b)` (R72): XOR the byte in, then shift 8 times. -/
def crcByteStep (c b : Byte) : Byte := Nat.iterate crcByteShift 8 (c ^^^ b)

/-- The table `T[b] = crc_byte_step(0x00, b)` (R72). -/
def crcTable (b : Byte) : Byte := crcByteStep 0x00 b

end Sys2Proof.Machine
end

