-- ==== Sys2Proof/Machine/Operands.lean ====
section
/-! DEFINITION. Operands: the one operand form of a request, the 16-bit raw code made of two received bytes. -/

namespace Sys2Proof.Machine

/-- The raw code is `MSB ++ LSB`: big-endian, unsigned, unmasked (spec/20_memory.md R37, spec/30_encoding.md R56,
spec/41_conversion.md R95). -/
def rawCode (msb lsb : Byte) : Raw := msb ++ lsb

/-- `RAW[15:8]` (spec/30_encoding.md R65). -/
def rawHigh (raw : Raw) : Byte := raw.extractLsb' 8 8

/-- `RAW[7:0]` (spec/30_encoding.md R65). -/
def rawLow (raw : Raw) : Byte := raw.extractLsb' 0 8

end Sys2Proof.Machine
end

