-- ==== Sys2Proof/Machine/State.lean ====
section
/-! DEFINITION. State: the five response registers as cells, the host's pending events and the answers it has had
(spec/10_state.md). Plain data. -/

namespace Sys2Proof.Machine

/-- The values of STATUS that the block writes (R22). Codes 4 to 7 are never written and have no constructor
(log 10). -/
inductive Status where
  /-- 0: no request since reset. -/
  | idle
  /-- 1: the CRC matched and VALUE holds the converted value. -/
  | ok
  /-- 2: the computed CRC differed from the received CRC byte. -/
  | checksumError
  /-- 3: the request's OP field selects no operation. -/
  | illegalOp
  deriving DecidableEq, Repr

/-- The values of KIND that the block writes (R23). Code 3 is never written and has no constructor (log 10). -/
inductive Kind where
  /-- 0 NONE: no legal request since reset. (Not the empty cell.) -/
  | none
  /-- 1 HUMIDITY: the latest legal request was CHKRH. -/
  | humidity
  /-- 2 TEMPERATURE: the latest legal request was CHKT. -/
  | temperature
  deriving DecidableEq, Repr

/-- The names of the response registers, for the host's `read NAME` (spec/30_encoding.md R66). -/
inductive RegName where
  | status | kind | raw | crcCalc | value
  deriving DecidableEq, Repr

/-- What the host can do to the block: give a request word, assert the reset input, read a register
(spec/10_state.md R29, spec/30_encoding.md R66). It cannot write a register. -/
inductive HostEvent where
  /-- One 32-bit request word, legal or not. -/
  | request (w : Word)
  /-- Assert the reset input (spec/70_reset_and_hazards.md R121). -/
  | reset
  /-- Read a response register. -/
  | read (r : RegName)
  deriving DecidableEq, Repr

/-- The model faults of spec/60_exceptions.md R113. Both are raised by a host read of a cell that holds none
(`readReg`), are recorded in the state as the read's answer, and stop nothing (log 3): no step ends in a fault.
Safe: the chip would return some bits, the model returns none. -/
inductive Fault where
  /-- `ValueUnset`: a read of VALUE that holds none, once reset or a request has written it. Raised by `readReg`
  alone. Safe. -/
  | valueUnset
  /-- `Unreset`: a read, before the first reset, of a register not written since power-up. Raised by `readReg`
  alone. Safe. -/
  | unreset
  deriving DecidableEq, Repr

/-- The reasons a step could be refused. No step of this model is (spec/30_encoding.md R61: "An illegal request is
not refused at the interface"). -/
inductive Refusal where
  /-- An instruction without a meaning yet: would be raised by an arm of `exec`; no arm does. Safe. -/
  | notModelled (mnemonic : String)
  deriving DecidableEq, Repr

/-- What a host read answers: the whole register (R29, R43), or the model fault it raised. -/
inductive Answer where
  | status (v : Status)
  | kind (v : Kind)
  | raw (v : Raw)
  | crcCalc (v : Byte)
  | value (v : Binary64)
  | fault (f : Fault)
  deriving DecidableEq, Repr

/-- One CCB instance (R19), with its host's pending events and past answers. A register is a cell that may hold
none (spec/00_scope.md R14); STATUS, KIND, RAW and CRC_CALC hold none only before the first reset (R33). -/
structure State where
  /-- STATUS, 3 bits (R22). -/
  status : Option Status
  /-- KIND, 2 bits (R23). -/
  kind : Option Kind
  /-- RAW, 16 bits (R24). -/
  raw : Option Raw
  /-- CRC_CALC, 8 bits (R25). -/
  crcCalc : Option Byte
  /-- VALUE, a binary64 datum or none (R26). -/
  value : Option Binary64
  /-- The host's events not yet taken, in the order issued (R21, spec/20_memory.md R47). The model's own field
  (log 1). -/
  inputs : List HostEvent
  /-- The answers of the host's reads, oldest first: part of the observation of a run
  (spec/70_reset_and_hazards.md R130). A recorded fault is the answer of the read that raised it (log 3). -/
  answers : List Answer
  deriving DecidableEq, Repr

/-- The block right after reset: the values of R34 and spec/70_reset_and_hazards.md R121, nothing pending, nothing
answered. VALUE's reset value is none (R26). -/
def State.reset : State where
  status := some .idle
  kind := some .none
  raw := some 0x0000
  crcCalc := some 0x00
  value := none
  inputs := []
  answers := []

end Sys2Proof.Machine
end

