-- ==== Sys2Proof/Machine/Ops.lean ====
section
/-! DEFINITION. Ops: the named operations over the response registers and the host's side of the block. The block has
no trap entry and no trap return (spec/60_exceptions.md R106, R111, R112): a failure is reported by `report`. -/

namespace Sys2Proof.Machine

/-- The state at power-up: every response register holds none (spec/10_state.md R33, spec/70_reset_and_hazards.md
R122). -/
def powerUp : State where
  status := none
  kind := none
  raw := none
  crcCalc := none
  value := none
  inputs := []
  answers := []

/-- `report(code)`: an outcome is the STATUS register written (spec/00_scope.md R16, spec/60_exceptions.md R106). -/
def report (code : Status) (s : State) : State := { s with status := some code }

/-- `VALUE <- v` (spec/10_state.md R26). -/
def writeValue (v : Option Binary64) (s : State) : State := { s with value := v }

/-- The three registers that say what was checked: KIND, RAW and CRC_CALC, always written together by a legal
request (spec/42_requests.md R98). -/
def writeChecked (kind : Kind) (raw : Raw) (crcCalc : Byte) (s : State) : State :=
  { s with kind := some kind, raw := some raw, crcCalc := some crcCalc }

/-- The reset input (spec/70_reset_and_hazards.md R121): it writes the five registers and nothing else. A recorded
fault stays (spec/60_exceptions.md R113 "never cleared by a later step"; log 13). -/
def assertReset (s : State) : State :=
  { s with status := some .idle, kind := some .none, raw := some 0x0000, crcCalc := some 0x00, value := none }

/-- The fault of reading a VALUE that holds none: `Unreset` when nothing has written it since power-up (STATUS, which
every request and reset writes with it, still holds none), `ValueUnset` otherwise (spec/60_exceptions.md R113,
spec/93_implementation_defined.md U1-U3; DEDUCED, safe, log 8). -/
def valueFault (s : State) : Fault :=
  match s.status with
  | none => .unreset
  | some _ => .valueUnset

/-- What a read of a register answers (spec/10_state.md R29): its whole value, or a model fault where the cell holds
none (spec/60_exceptions.md R113). -/
def readReg (r : RegName) (s : State) : Answer :=
  match r with
  | .status => match s.status with
    | some v => .status v
    | none => .fault .unreset
  | .kind => match s.kind with
    | some v => .kind v
    | none => .fault .unreset
  | .raw => match s.raw with
    | some v => .raw v
    | none => .fault .unreset
  | .crcCalc => match s.crcCalc with
    | some v => .crcCalc v
    | none => .fault .unreset
  | .value => match s.value with
    | some v => .value v
    | none => .fault (valueFault s)

/-- A host read: the answer is recorded and no register changes (spec/10_state.md R29). -/
def hostRead (r : RegName) (s : State) : State := { s with answers := s.answers ++ [readReg r s] }

/-- The fault an answer records, if any. -/
def answerFault : Answer → Option Fault
  | .fault f => some f
  | .status _ => none
  | .kind _ => none
  | .raw _ => none
  | .crcCalc _ => none
  | .value _ => none

/-- The model faults recorded in a state, oldest first (spec/60_exceptions.md R113). -/
def recordedFaults (s : State) : List Fault := s.answers.filterMap answerFault

/-- The host issues events: they wait behind those already issued (spec/20_memory.md R47). -/
def issue (es : List HostEvent) (s : State) : State := { s with inputs := s.inputs ++ es }

/-- The oldest pending event and the state without it, if there is one (spec/20_memory.md R47: "in the order the
host issues them"). -/
def takeEvent (s : State) : Option (HostEvent × State) :=
  match s.inputs with
  | [] => none
  | e :: rest => some (e, { s with inputs := rest })

end Sys2Proof.Machine
end

