-- ==== Sys2Proof/Machine/Requests.lean ====
section
/-! DEFINITION. Requests: the meanings of CHKRH, CHKT and of an illegal request (spec/42_requests.md). All of a
request's writes take effect in one step (spec/70_reset_and_hazards.md R126). -/

namespace Sys2Proof.Machine

/-- `check_convert` of R98 over a conversion: KIND, RAW and CRC_CALC on every path, then the outcome. The received
CRC byte is not kept (spec/10_state.md R27), and the value is delivered unclamped (spec/41_conversion.md R94). -/
def checkConvert (kind : Kind) (convert : Raw → Binary64) (raw : Raw) (crcRx : Byte) (s : State) : State :=
  let checked := writeChecked kind raw (crc8 raw) s
  if crcOk raw crcRx then report .ok (writeValue (some (convert raw)) checked)
  else report .checksumError (writeValue none checked)

/-- CHKRH (R99). -/
def execChkrh (msb lsb crc : Byte) (s : State) : Host.Outcome State Fault Refusal :=
  .next (checkConvert .humidity rh (rawCode msb lsb) crc s)

/-- CHKT (R100). -/
def execChkt (msb lsb crc : Byte) (s : State) : Host.Outcome State Fault Refusal :=
  .next (checkConvert .temperature temp (rawCode msb lsb) crc s)

/-- An illegal request (R101): STATUS and VALUE are written; KIND, RAW and CRC_CALC keep what they hold. The
offending selector is not recorded (spec/60_exceptions.md R107). -/
def execIllegal (_op : Byte) (s : State) : Host.Outcome State Fault Refusal :=
  .next (report .illegalOp (writeValue none s))

end Sys2Proof.Machine
end

