-- ==== Sys2Proof/Machine/Dispatch.lean ====
section
/-! DEFINITION. Dispatch: one arm per instruction. -/

namespace Sys2Proof.Machine
open Sys2Proof

def exec (i : Instr) (s : State) : Host.Outcome State Fault Refusal :=
  match i with
  | .chkrh msb lsb crc => Sys2Proof.Machine.execChkrh msb lsb crc s
  | .chkt msb lsb crc => Sys2Proof.Machine.execChkt msb lsb crc s

end Sys2Proof.Machine
end

