-- ==== Sys2Proof/Machine/Step.lean ====
section
/-! DEFINITION. Step: the block takes the host's oldest pending event. -/

namespace Sys2Proof.Machine

/-- A request word is decoded and runs; an illegal one is accepted too (spec/30_encoding.md R61, R63). -/
def acceptRequest (w : Word) (s : State) : Host.Outcome State Fault Refusal :=
  match decode w with
  | .legal i => exec i s
  | .illegal op => execIllegal op s

/-- One host event takes effect, whole (spec/70_reset_and_hazards.md R126). -/
def applyEvent (e : HostEvent) (s : State) : Host.Outcome State Fault Refusal :=
  match e with
  | .request w => acceptRequest w s
  | .reset => .next (assertReset s)
  | .read r => .next (hostRead r s)

/-- One step: the oldest pending event takes effect (spec/20_memory.md R47). With no event pending the block does
nothing (log 2). -/
def step (s : State) : Host.Outcome State Fault Refusal :=
  match takeEvent s with
  | none => .next s
  | some (e, s') => applyEvent e s'

/-- The state in which the host's next event is the request whose low bits are `w` (the bits above `nbits` zero): the
block fetches nothing, its requests are pushed by the host (spec/10_state.md R21; log 1). -/
def State.withFetchWord (s : State) (nbits w : Nat) : State :=
  { s with inputs := .request (BitVec.ofNat 32 (w % 2 ^ nbits)) :: s.inputs }

end Sys2Proof.Machine
end

