-- ==== Sys2Proof/Machine/Assembler.lean ====
section
/-! DEFINITION. Assembler: the notation of spec/30_encoding.md R64 to R66, from a line of text to a host event. The
blanks, the letter case of hexadecimal digits and the treatment of empty lines are the model's choice (log 12). -/

namespace Sys2Proof.Machine

/-- A line of the notation: a request (R64), a pseudo-instruction (R65) or a host directive (R66). Operands are the
literals as written. -/
inductive AsmLine where
  | chkrh (msb lsb crc : Nat)
  | chkt (msb lsb crc : Nat)
  | chkrh16 (raw crc : Nat)
  | chkt16 (raw crc : Nat)
  | chkrhGood (raw : Nat)
  | chktGood (raw : Nat)
  | req (op msb lsb crc : Nat)
  | reset
  | read (r : RegName)
  deriving DecidableEq, Repr

/-- A line is well formed when each literal is in range (R64, R65). -/
def asmLineWellFormed : AsmLine → Bool
  | .chkrh msb lsb crc => byteLiteralOk msb && byteLiteralOk lsb && byteLiteralOk crc
  | .chkt msb lsb crc => byteLiteralOk msb && byteLiteralOk lsb && byteLiteralOk crc
  | .chkrh16 raw crc => rawLiteralOk raw && byteLiteralOk crc
  | .chkt16 raw crc => rawLiteralOk raw && byteLiteralOk crc
  | .chkrhGood raw => rawLiteralOk raw
  | .chktGood raw => rawLiteralOk raw
  | .req op msb lsb crc => byteLiteralOk op && byteLiteralOk msb && byteLiteralOk lsb && byteLiteralOk crc
  | .reset => true
  | .read _ => true

/-- The byte a literal in range stands for. -/
def literalByte (n : Nat) : Byte := BitVec.ofNat 8 n

/-- The raw code a literal in range stands for. -/
def literalRaw (n : Nat) : Raw := BitVec.ofNat 16 n

/-- The event of a well-formed line: each pseudo-instruction expands to exactly one request (R65). -/
def asmEvent : AsmLine → HostEvent
  | .chkrh msb lsb crc => .request (encode (.chkrh (literalByte msb) (literalByte lsb) (literalByte crc)))
  | .chkt msb lsb crc => .request (encode (.chkt (literalByte msb) (literalByte lsb) (literalByte crc)))
  | .chkrh16 raw crc =>
    .request (encode (.chkrh (rawHigh (literalRaw raw)) (rawLow (literalRaw raw)) (literalByte crc)))
  | .chkt16 raw crc =>
    .request (encode (.chkt (rawHigh (literalRaw raw)) (rawLow (literalRaw raw)) (literalByte crc)))
  | .chkrhGood raw =>
    .request (encode (.chkrh (rawHigh (literalRaw raw)) (rawLow (literalRaw raw)) (crc8 (literalRaw raw))))
  | .chktGood raw =>
    .request (encode (.chkt (rawHigh (literalRaw raw)) (rawLow (literalRaw raw)) (crc8 (literalRaw raw))))
  | .req op msb lsb crc =>
    .request (packRequest (literalByte op) (literalByte msb) (literalByte lsb) (literalByte crc))
  | .reset => .reset
  | .read r => .read r

/-- A literal out of range is an assembly error (R64). -/
def assemble (l : AsmLine) : Option HostEvent :=
  if asmLineWellFormed l then some (asmEvent l) else none

/-- The value of a digit of a number base up to 16. -/
def digitValue (base : Nat) (c : Char) : Option Nat :=
  let n := c.toNat
  let d :=
    if 48 ≤ n && n ≤ 57 then n - 48
    else if 97 ≤ n && n ≤ 102 then n - 87
    else if 65 ≤ n && n ≤ 70 then n - 55
    else base
  if d < base then some d else none

/-- The number that digits stand for, given the number before them. -/
def digitsValue (base : Nat) : Nat → List Char → Option Nat
  | acc, [] => some acc
  | acc, c :: cs => match digitValue base c with
    | some d => digitsValue base (acc * base + d) cs
    | none => none

/-- A literal "written as `0x` hexadecimal or as decimal" (R64), with at least one digit. -/
def parseLiteral : List Char → Option Nat
  | '0' :: 'x' :: d :: ds => digitsValue 16 0 (d :: ds)
  | d :: ds => digitsValue 10 0 (d :: ds)
  | [] => none

/-- A blank: a space or a tab. -/
def isBlank (c : Char) : Bool := c == ' ' || c == '\t'

/-- A text without the blanks at its two ends. -/
def trimBlanks (l : List Char) : List Char := ((l.dropWhile isBlank).reverse.dropWhile isBlank).reverse

/-- "A `;` starts a comment" (R64). -/
def stripComment (l : List Char) : List Char := l.takeWhile (· != ';')

/-- The parts of a text between its commas (R64). -/
def splitCommas : List Char → List (List Char)
  | [] => [[]]
  | c :: cs =>
    if c == ',' then [] :: splitCommas cs
    else match splitCommas cs with
      | [] => [[c]]
      | part :: parts => (c :: part) :: parts

/-- All the literals of a list of parts, if each is one. -/
def parseLiterals : List (List Char) → Option (List Nat)
  | [] => some []
  | part :: parts => match parseLiteral (trimBlanks part), parseLiterals parts with
    | some n, some ns => some (n :: ns)
    | _, _ => none

/-- The register of a `read NAME` directive (R66). -/
def parseRegName (l : List Char) : Option RegName :=
  if l = ['S', 'T', 'A', 'T', 'U', 'S'] then some .status
  else if l = ['K', 'I', 'N', 'D'] then some .kind
  else if l = ['R', 'A', 'W'] then some .raw
  else if l = ['C', 'R', 'C', '_', 'C', 'A', 'L', 'C'] then some .crcCalc
  else if l = ['V', 'A', 'L', 'U', 'E'] then some .value
  else none

/-- The line with a mnemonic of R64 or R65, in lower case, and its literals. -/
def lineOfMnemonic (m : List Char) (operands : List Nat) : Option AsmLine :=
  match operands with
  | [raw] =>
    if m = ['c', 'h', 'k', 'r', 'h', '.', 'g', 'o', 'o', 'd'] then some (.chkrhGood raw)
    else if m = ['c', 'h', 'k', 't', '.', 'g', 'o', 'o', 'd'] then some (.chktGood raw)
    else none
  | [raw, crc] =>
    if m = ['c', 'h', 'k', 'r', 'h', '1', '6'] then some (.chkrh16 raw crc)
    else if m = ['c', 'h', 'k', 't', '1', '6'] then some (.chkt16 raw crc)
    else none
  | [msb, lsb, crc] =>
    if m = ['c', 'h', 'k', 'r', 'h'] then some (.chkrh msb lsb crc)
    else if m = ['c', 'h', 'k', 't'] then some (.chkt msb lsb crc)
    else none
  | [op, msb, lsb, crc] =>
    if m = ['.', 'r', 'e', 'q'] then some (.req op msb lsb crc) else none
  | _ => none

/-- One line of text (R64 to R66); a line without a request or directive is not one. -/
def parseLine (text : List Char) : Option AsmLine :=
  let line := trimBlanks (stripComment text)
  let m := line.takeWhile (fun c => !isBlank c)
  let rest := trimBlanks (line.dropWhile (fun c => !isBlank c))
  if m = ['r', 'e', 's', 'e', 't'] then
    if rest = [] then some .reset else none
  else if m = ['r', 'e', 'a', 'd'] then
    match parseRegName rest with
    | some r => some (.read r)
    | none => none
  else match parseLiterals (splitCommas rest) with
    | some operands => lineOfMnemonic m operands
    | none => none

/-- The host events of a text, one request or directive a line; lines with nothing but blanks and a comment give
none, and any line in error makes the whole an assembly error. -/
def assembleText : List (List Char) → Option (List HostEvent)
  | [] => some []
  | text :: texts =>
    if trimBlanks (stripComment text) = [] then assembleText texts
    else match parseLine text, assembleText texts with
      | some l, some es => match assemble l with
        | some e => some (e :: es)
        | none => none
      | _, _ => none

end Sys2Proof.Machine
end

