-- ==== Sys2Proof/Machine/System.lean ====
section
/-! DEFINITION. System: several CCB instances (spec/10_state.md R36, spec/60_exceptions.md R118). -/

namespace Sys2Proof.Machine

/-- The instances, each with its own response registers (R36). -/
abbrev System := List State

/-- Instance `k` takes its next event; the others are not touched (R36). There is no answer where there is no such
instance or its step stops. -/
def stepInstance (k : Nat) (sys : System) : Option System :=
  match sys[k]? with
  | none => none
  | some s => match step s with
    | .next t => some (sys.set k t)
    | .fault _ => none
    | .refused _ => none

end Sys2Proof.Machine
end

