-- ==== Sys2Proof/Machine/Flags.lean ====
section
/-! DEFINITION. Flags: STATUS and KIND, the block's only flags (spec/10_state.md R28), as the words a host reads. -/

namespace Sys2Proof.Machine

/-- The 3-bit code of STATUS (R22). -/
def statusCode : Status → BitVec 3
  | .idle => 0
  | .ok => 1
  | .checksumError => 2
  | .illegalOp => 3

/-- The STATUS a code stands for; the reserved codes 4 to 7 stand for none (R22). -/
def statusOfCode (c : BitVec 3) : Option Status :=
  if c = 0 then some .idle
  else if c = 1 then some .ok
  else if c = 2 then some .checksumError
  else if c = 3 then some .illegalOp
  else none

/-- The 2-bit code of KIND (R23). -/
def kindCode : Kind → BitVec 2
  | .none => 0
  | .humidity => 1
  | .temperature => 2

/-- The KIND a code stands for; the reserved code 3 stands for none (R23). -/
def kindOfCode (c : BitVec 2) : Option Kind :=
  if c = 0 then some .none
  else if c = 1 then some .humidity
  else if c = 2 then some .temperature
  else none

end Sys2Proof.Machine
end

