-- ==== Sys2Proof/Safety.lean ====
section
/-! DEFINITION. Safety: the response state, the observation of a run, and the invariants of spec/10_state.md R35. -/

namespace Sys2Proof.Machine

/-- The response state: the five registers and nothing else (R19). -/
structure Registers where
  status : Option Status
  kind : Option Kind
  raw : Option Raw
  crcCalc : Option Byte
  value : Option Binary64
  deriving DecidableEq, Repr

/-- The response state of a block. -/
def registers (s : State) : Registers where
  status := s.status
  kind := s.kind
  raw := s.raw
  crcCalc := s.crcCalc
  value := s.value

/-- What a run is observed by: the response state after it and the answers of the reads made in it
(spec/70_reset_and_hazards.md R130). -/
structure Observation where
  registers : Registers
  answers : List Answer
  deriving DecidableEq, Repr

/-- The observation of a state (R130). -/
def observe (s : State) : Observation where
  registers := registers s
  answers := s.answers

/-- The run of a sequence of host events after one reset, from power-up: it ends after its last element (R130). -/
def hostRun (es : List HostEvent) : Host.Outcome State Fault Refusal :=
  core.run (es.length + 1) (issue (.reset :: es) powerUp)

/-- Whether an event is a host read. -/
def isRead : HostEvent → Bool
  | .request _ => false
  | .reset => false
  | .read _ => true

/-- The conversion a KIND stands for (spec/41_conversion.md R97). -/
def converted : Kind → Raw → Option Binary64
  | .none, _ => none
  | .humidity, raw => some (rh raw)
  | .temperature, raw => some (temp raw)

/-- The real number of `num / den` units of 2^-1074 with a sign: what an operation rounds
(spec/41_conversion.md R82). -/
def exactValue (neg : Bool) (num den : Nat) : ℚ :=
  (if neg then -((num : ℚ) / den) else (num : ℚ) / den) / (f64Unit : ℚ)

/-- The datum nearest to the real number -46.85 + 175.72 * raw / 65536 with the decimal constants: the single
rounding that `temp` does not do (R90). The machine never uses it. -/
def tempOnceRounded (raw : Raw) : Binary64 :=
  let scaled : Int := 17572 * (raw.toNat : Int) - 4685 * 65536
  roundF64 (decide (scaled < 0)) (scaled.natAbs * f64Unit) (100 * 65536)

/-- The invariants of R35, in its order. -/
structure Inv (s : State) : Prop where
  /-- Item 1: VALUE holds a datum exactly when STATUS is OK. -/
  value_iff_ok : s.value ≠ none ↔ s.status = some .ok
  /-- Item 2: after an OK, CRC_CALC and VALUE are those of RAW and KIND. -/
  of_ok : s.status = some .ok → ∃ kind raw, (kind = .humidity ∨ kind = .temperature) ∧ s.kind = some kind ∧
    s.raw = some raw ∧ s.crcCalc = some (crc8 raw) ∧ s.value = converted kind raw
  /-- Item 3: after a checksum error, CRC_CALC is that of RAW. -/
  of_checksumError : s.status = some .checksumError → (s.kind = some .humidity ∨ s.kind = some .temperature) ∧
    ∃ raw, s.raw = some raw ∧ s.crcCalc = some (crc8 raw)
  /-- Item 4: while IDLE the other registers hold their reset values. -/
  of_idle : s.status = some .idle → registers s = registers State.reset
  /-- Item 5: RAW and CRC_CALC agree whenever both hold values. -/
  crc_of_raw : ∀ raw c, s.raw = some raw → s.crcCalc = some c → c = crc8 raw

/-- KIND, RAW and CRC_CALC hold values together, and only once STATUS has been written: reset and legal requests
write them together, an illegal request writes none of them (R33, R35 item 5, spec/42_requests.md R98). -/
def CellsTogether (s : State) : Prop :=
  (s.kind = none ↔ s.raw = none) ∧ (s.raw = none ↔ s.crcCalc = none) ∧
    (s.status = none → s.raw = none ∧ s.value = none)

/-- Every register but VALUE holds a value: what a reset or a legal request brings about
(spec/70_reset_and_hazards.md R125). -/
def Booted (s : State) : Prop := s.status ≠ none ∧ s.kind ≠ none ∧ s.raw ≠ none ∧ s.crcCalc ≠ none

end Sys2Proof.Machine
end

