-- ==== Sys2Proof/Certificates/Slice0/Obligations.lean ====
section
/-! DEFINITION. Obligations: the statements for the provers, each from a numbered rule of spec/. -/

open Sys2Proof Sys2Proof.Machine

/-! ### Encoding (spec/30_encoding.md, spec/20_memory.md) -/

/-- Request words written out from R55 and R60 decode to the requests they stand for; others are illegal. -/
def Obligations.DecodeVectors : Prop :=
  decode 0xE5683A7C = .legal (.chkrh 0x68 0x3A 0x7C) ∧
  decode 0xE34E856B = .legal (.chkt 0x4E 0x85 0x6B) ∧
  decode 0xE5000000 = .legal (.chkrh 0x00 0x00 0x00) ∧
  decode 0xE3FFFF2D = .legal (.chkt 0xFF 0xFF 0x2D) ∧
  decode 0xE4683A7C = .illegal 0xE4 ∧
  decode 0xE6008100 = .illegal 0xE6 ∧
  decode 0xE7683A7C = .illegal 0xE7 ∧
  decode 0xFE000000 = .illegal 0xFE ∧
  decode 0x00000000 = .illegal 0x00

/-- Decoding the word of any well-formed request gives the request back (R55, R60, R63). -/
def Obligations.DecodeEncode : Prop :=
  ∀ i : Instr, instrWellFormed i = true → decode (encode i) = .legal i

/-- A word that decodes to a request is that request's word: no two words share a meaning (R55, R63). -/
def Obligations.EncodeDecode : Prop :=
  ∀ (w : Word) (i : Instr), decode w = .legal i → encode i = w

/-- R63, over every word, with the slices it names; and the same opcode map by mask and match, as R60 has it. -/
def Obligations.OpcodeMap : Prop :=
  ∀ w : Word,
    (w.extractLsb' 24 8 = 0xE5 →
      decode w = .legal (.chkrh (w.extractLsb' 16 8) (w.extractLsb' 8 8) (w.extractLsb' 0 8))) ∧
    (w.extractLsb' 24 8 = 0xE3 →
      decode w = .legal (.chkt (w.extractLsb' 16 8) (w.extractLsb' 8 8) (w.extractLsb' 0 8))) ∧
    (w.extractLsb' 24 8 ≠ 0xE5 → w.extractLsb' 24 8 ≠ 0xE3 → decode w = .illegal (w.extractLsb' 24 8)) ∧
    rawCode (w.extractLsb' 16 8) (w.extractLsb' 8 8) = w.extractLsb' 8 16 ∧
    ((w &&& 0xFF000000) = 0xE5000000 ↔ ∃ msb lsb crc, decode w = .legal (.chkrh msb lsb crc)) ∧
    ((w &&& 0xFF000000) = 0xE3000000 ↔ ∃ msb lsb crc, decode w = .legal (.chkt msb lsb crc))

/-- R61: 254 selectors are illegal, the sensor's other commands among them; with any operands such a request is
accepted and reports ILLEGAL_OP. -/
def Obligations.IllegalSpace : Prop :=
  ((List.range 256).filter (fun n => !legalOp (BitVec.ofNat 8 n))).length = 254 ∧
  legalOp 0xE6 = false ∧ legalOp 0xE7 = false ∧ legalOp 0xFE = false ∧
  (∀ op : Byte, legalOp op = false ↔ op ≠ 0xE5 ∧ op ≠ 0xE3) ∧
  ∀ (op msb lsb crc : Byte) (s : State), legalOp op = false →
    ∃ t, acceptRequest (packRequest op msb lsb crc) s = .next t ∧ t.status = some .illegalOp

/-- R37: the raw code is big-endian, `zext_16(MSB) << 8 | zext_16(LSB)`, which is `MSB ++ LSB`. -/
def Obligations.RawBigEndian : Prop :=
  ∀ msb lsb : Byte,
    rawCode msb lsb = (msb.setWidth 16 <<< 8) ||| lsb.setWidth 16 ∧
    (rawCode msb lsb).extractLsb' 8 8 = msb ∧ (rawCode msb lsb).extractLsb' 0 8 = lsb ∧
    (rawCode msb lsb).toNat = msb.toNat * 256 + lsb.toNat

/-- R65: each pseudo-instruction is exactly one request, the expansion of the table; `.req` takes any selector. -/
def Obligations.PseudoInstructions : Prop :=
  (∀ raw crc : Nat, raw < 65536 → crc < 256 →
    assemble (.chkrh16 raw crc) = assemble (.chkrh (raw / 256) (raw % 256) crc) ∧
    assemble (.chkt16 raw crc) = assemble (.chkt (raw / 256) (raw % 256) crc)) ∧
  (∀ raw : Raw,
    assemble (.chkrhGood raw.toNat) = assemble (.chkrh (raw.toNat / 256) (raw.toNat % 256) (crc8 raw).toNat) ∧
    assemble (.chktGood raw.toNat) = assemble (.chkt (raw.toNat / 256) (raw.toNat % 256) (crc8 raw).toNat)) ∧
  ∀ op msb lsb crc : Byte,
    assemble (.req op.toNat msb.toNat lsb.toNat crc.toNat) = some (.request (packRequest op msb lsb crc)) ∧
    packRequest op msb lsb crc = op ++ msb ++ lsb ++ crc

/-- The operands of an assembled request are 8-bit literals, encoded as `OP ++ MSB ++ LSB ++ CRC`; a literal above 255
is an assembly error (R64). -/
def Obligations.AssembledRequests : Prop :=
  ∀ msb lsb crc : Nat,
    ((msb ≤ 255 ∧ lsb ≤ 255 ∧ crc ≤ 255) →
      assemble (.chkrh msb lsb crc)
        = some (.request (BitVec.ofNat 32 (0xE5 * 2 ^ 24 + msb * 2 ^ 16 + lsb * 2 ^ 8 + crc))) ∧
      assemble (.chkt msb lsb crc)
        = some (.request (BitVec.ofNat 32 (0xE3 * 2 ^ 24 + msb * 2 ^ 16 + lsb * 2 ^ 8 + crc)))) ∧
    ((255 < msb ∨ 255 < lsb ∨ 255 < crc) →
      assemble (.chkrh msb lsb crc) = none ∧ assemble (.chkt msb lsb crc) = none)

/-- The codes of STATUS and KIND (R22, R23): each name has its own code, and the reserved codes stand for no name. -/
def Obligations.OutcomeCodes : Prop :=
  statusCode .idle = 0 ∧ statusCode .ok = 1 ∧ statusCode .checksumError = 2 ∧ statusCode .illegalOp = 3 ∧
  kindCode .none = 0 ∧ kindCode .humidity = 1 ∧ kindCode .temperature = 2 ∧
  (∀ st, statusOfCode (statusCode st) = some st) ∧ (∀ k, kindOfCode (kindCode k) = some k) ∧
  (∀ c, 4 ≤ c.toNat → statusOfCode c = none) ∧ kindOfCode 3 = none

/-! ### The CRC (spec/40_crc8.md) -/

/-- R67: the literal 0x13100 is 0x131 shifted by 8; its bits are 16, 13, 12 and 8. -/
def Obligations.PolynomialLiteral : Prop :=
  poly = 0x13100 ∧ poly = (0x131 : CrcReg) <<< 8 ∧
  (∀ k < 17, poly.getLsbD k = true ↔ k = 16 ∨ k = 13 ∨ k = 12 ∨ k = 8) ∧
  (∀ k < 17, (0x131 : CrcReg).getLsbD k = true ↔ k = 8 ∨ k = 5 ∨ k = 4 ∨ k = 0) ∧
  poly.setWidth 16 = (0x31 : Raw) <<< 8

/-- R70: the working register stays below 2^16, and registers of 16 bits, of any 17 bits or more, and of 16 bits with
a late truncation all give the same CRC. -/
def Obligations.CrcWidthIndependent : Prop :=
  (∀ w : CrcReg, w.toNat < 2 ^ 16 →
    (crcStep w).toNat < 2 ^ 16 ∧ (crcStep w).setWidth 16 = crcStep16 (w.setWidth 16)) ∧
  (∀ w : Raw, crcStepTrunc w = crcStep16 w) ∧
  (∀ (raw : Raw) (k : Nat), (Nat.iterate crcStep k (raw.setWidth 17)).toNat < 2 ^ 16) ∧
  (∀ raw : Raw, (Nat.iterate crcStep16 16 raw).extractLsb' 8 8 = crc8 raw) ∧
  (∀ raw : Raw, (Nat.iterate crcStepTrunc 16 raw).extractLsb' 8 8 = crc8 raw) ∧
  ∀ n : Nat, 17 ≤ n → ∀ raw : Raw,
    (Nat.iterate (crcStepWide n) 16 (raw.setWidth n)).extractLsb' 8 8 = crc8 raw

/-- R72: crc8 is the byte-wise CRC over MSB, then LSB, and the table form of it. -/
def Obligations.CrcBytewise : Prop :=
  ∀ raw : Raw,
    crc8 raw = crcByteStep (crcByteStep 0x00 (raw.extractLsb' 8 8)) (raw.extractLsb' 0 8) ∧
    crc8 raw = crcTable (crcTable (raw.extractLsb' 8 8) ^^^ raw.extractLsb' 0 8)

/-- R74, its five items. -/
def Obligations.CrcProperties : Prop :=
  crc8 0x0000 = 0x00 ∧
  (∀ a b : Raw, crc8 (a ^^^ b) = crc8 a ^^^ crc8 b) ∧
  (∀ b : Byte, crc8 (rawCode 0x00 b) = crcTable b) ∧
  (List.range 16).map (fun k => crc8 ((1 : Raw) <<< k))
    = [0x31, 0x62, 0xC4, 0xB9, 0x43, 0x86, 0x3D, 0x7A, 0xF4, 0xD9, 0x83, 0x37, 0x6E, 0xDC, 0x89, 0x23] ∧
  (∀ (raw : Raw) (k : Nat), k < 16 → crc8 (raw ^^^ (1 <<< k)) ≠ crc8 raw) ∧
  crc8 0xFFFF = 0x2D ∧ crc8 0xFF00 = 0x81 ∧ crc8 0x00FF = 0xAC

/-- R78: the right CRC byte passes, any single flipped bit of it fails (with ChecksumError from both requests), and
exactly one byte passes. -/
def Obligations.CrcRoundTrip : Prop :=
  ∀ r : Raw,
    crcOk r (crc8 r) = true ∧
    (∀ k < 8, crcOk r (crc8 r ^^^ ((1 : Byte) <<< k)) = false) ∧
    (∃! c : Byte, crcOk r c = true) ∧
    ∀ k < 8, ∀ s : State,
      (∃ t, exec (.chkrh (rawHigh r) (rawLow r) (crc8 r ^^^ ((1 : Byte) <<< k))) s = .next t ∧
        t.status = some .checksumError) ∧
      ∃ t, exec (.chkt (rawHigh r) (rawLow r) (crc8 r ^^^ ((1 : Byte) <<< k))) s = .next t ∧
        t.status = some .checksumError

/-- R80: no change of one or of two bits of a correct 24-bit triple (raw, crc_rx) passes the check; a change of four
bits can. -/
def Obligations.ErrorDetection : Prop :=
  (∀ triple : BitVec 24, crcOk (triple.extractLsb' 8 16) (triple.extractLsb' 0 8) = true →
    ∀ i < 24, ∀ j < 24,
      (let one := triple ^^^ ((1 : BitVec 24) <<< i)
       crcOk (one.extractLsb' 8 16) (one.extractLsb' 0 8) = false) ∧
      (i ≠ j →
        let two := triple ^^^ ((1 : BitVec 24) <<< i) ^^^ ((1 : BitVec 24) <<< j)
        crcOk (two.extractLsb' 8 16) (two.extractLsb' 0 8) = false)) ∧
  crcOk 0x0000 0x00 = true ∧ crcOk 0x0001 0x31 = true

/-- R79: CHKRH and CHKT compute the same CRC for the same raw code, whatever the state and the received byte. -/
def Obligations.SameCrcForBoth : Prop :=
  ∀ (msb lsb crc crc' : Byte) (s s' : State), ∃ t t',
    exec (.chkrh msb lsb crc) s = .next t ∧ exec (.chkt msb lsb crc') s' = .next t' ∧
    t.crcCalc = some (crc8 (rawCode msb lsb)) ∧ t'.crcCalc = t.crcCalc

/-! ### Binary64 and the conversions (spec/41_conversion.md) -/

/-- A normal datum is (-1)^s × 1.f × 2^(e-1023) (R81; PRESUMED, log 5). -/
def Obligations.NormalValue : Prop :=
  ∀ v : Binary64, f64IsNormal v = true →
    f64Value v = (if v.getLsbD 63 then -1 else 1) * (1 + ((v.extractLsb' 0 52).toNat : ℚ) / 2 ^ 52)
      * (2 : ℚ) ^ (((v.extractLsb' 52 11).toNat : ℤ) - 1023)

/-- Rounding is to the nearest datum, and of two equally near ones to the even (R15, R82; PRESUMED, log 5). -/
def Obligations.RoundsToNearestEven : Prop :=
  ∀ (neg : Bool) (num den : Nat), 0 < den → roundMag num den < f64InfMag →
    f64Exp (roundF64 neg num den) ≠ 2047 ∧
    ∀ v : Binary64, f64Exp v ≠ 2047 →
      |f64Value (roundF64 neg num den) - exactValue neg num den| ≤ |f64Value v - exactValue neg num den| ∧
      (|f64Value v - exactValue neg num den| = |f64Value (roundF64 neg num den) - exactValue neg num den| →
        f64Value v ≠ f64Value (roundF64 neg num den) → f64Frac (roundF64 neg num den) % 2 = 0)

/-- On finite operands each operation rounds its exact result, once (R15, R82; PRESUMED, log 5). -/
def Obligations.OperationsRoundOnce : Prop :=
  ∀ a b : Binary64, f64Exp a ≠ 2047 → f64Exp b ≠ 2047 →
    (∃ neg num den, 0 < den ∧ exactValue neg num den = f64Value a + f64Value b ∧
      fadd a b = roundF64 neg num den) ∧
    (∃ neg num den, 0 < den ∧ exactValue neg num den = f64Value a * f64Value b ∧
      fmul a b = roundF64 neg num den) ∧
    (f64Value b ≠ 0 → ∃ neg num den, 0 < den ∧ exactValue neg num den = f64Value a / f64Value b ∧
      fdiv a b = roundF64 neg num den)

/-- R83: the five constants, as bits and as exact decimals. -/
def Obligations.Constants : Prop :=
  (rhOff = 0xC018000000000000 ∧ f64Value rhOff = -6) ∧
  (rhScale = 0x405F400000000000 ∧ f64Value rhScale = 125) ∧
  (tOff = 0xC0476CCCCCCCCCCD ∧
    f64Value tOff = -46.85000000000000142108547152020037174224853515625) ∧
  (tScale = 0x4065F70A3D70A3D7 ∧
    f64Value tScale = 175.719999999999998863131622783839702606201171875) ∧
  (divisor = 0x40F0000000000000 ∧ f64Value divisor = 65536) ∧
  f64Value tOff ≠ -46.85 ∧ f64Value tScale ≠ 175.72

/-- R84: every integer below 2^53 converts exactly, so every raw code does, read as unsigned. -/
def Obligations.ToF64Exact : Prop :=
  (∀ n : Nat, n < 2 ^ 53 → f64Value (toF64 n) = n) ∧
  ∀ raw : Raw, f64Value (toF64 raw.toNat) = raw.toNat ∧ 0 ≤ f64Value (toF64 raw.toNat) ∧
    f64Value (toF64 raw.toNat) ≤ 65535

/-- R85: the quotient is exact, in [0, 65535/65536], and never subnormal. -/
def Obligations.QuotientExact : Prop :=
  ∀ raw : Raw,
    quotient raw = fdiv (toF64 raw.toNat) divisor ∧
    f64Value (quotient raw) = (raw.toNat : ℚ) / 2 ^ 16 ∧
    0 ≤ f64Value (quotient raw) ∧ f64Value (quotient raw) ≤ 65535 / 65536 ∧
    (raw ≠ 0 → f64IsNormal (quotient raw) = true ∧ 1 / 2 ^ 16 ≤ f64Value (quotient raw)) ∧
    f64Value (quotient 1) = 1 / 2 ^ 16

/-- Humidity needs no rounding: the product and the sum are exact, so rounding the exact formula once gives the same
datum (R87). -/
def Obligations.RhExact : Prop :=
  ∀ raw : Raw,
    f64Value (fmul rhScale (quotient raw)) = 125 * (raw.toNat : ℚ) / 2 ^ 16 ∧
    125 * raw.toNat ≤ 8191875 ∧
    f64Value (rh raw) = (125 * (raw.toNat : ℚ) - 393216) / 65536 ∧
    rh raw = roundF64 (decide (125 * (raw.toNat : ℤ) - 393216 < 0))
      ((125 * (raw.toNat : ℤ) - 393216).natAbs * f64Unit) 65536

/-- R88, its five items. -/
def Obligations.RhProperties : Prop :=
  (f64Value (rh 0x0000) = -6 ∧ f64Value (rh 0xFFFF) = 7798659 / 65536 ∧ rh 0xFFFF = 0x405DBFE0C0000000) ∧
  (∀ raw : Raw, raw.toNat < 65535 → f64Value (rh (raw + 1)) = f64Value (rh raw) + 125 / 65536) ∧
  (∀ a b : Raw, a.toNat < b.toNat → f64Value (rh a) < f64Value (rh b)) ∧
  (∀ raw : Raw, (raw.toNat ≤ 3145 → f64Value (rh raw) < 0) ∧ (3146 ≤ raw.toNat → 0 < f64Value (rh raw)) ∧
    f64Value (rh raw) ≠ 0) ∧
  (∀ raw : Raw, (55575 ≤ raw.toNat → 100 < f64Value (rh raw)) ∧ (raw.toNat ≤ 55574 → f64Value (rh raw) < 100) ∧
    f64Value (rh raw) ≠ 100) ∧
  ∀ (raw : Raw) (s : State), f64Value (rh raw) < 0 ∨ 100 < f64Value (rh raw) →
    ∃ t, exec (.chkrh (rawHigh raw) (rawLow raw) (crc8 raw)) s = .next t ∧ t.status = some .ok ∧
      t.value = some (rh raw)

/-- R91, its five items. -/
def Obligations.TempProperties : Prop :=
  (temp 0x0000 = 0xC0476CCCCCCCCCCD ∧
    f64Value (temp 0x0000) = -46.85000000000000142108547152020037174224853515625 ∧
    temp 0x0000 = tOff ∧ fmul tScale (quotient 0x0000) = 0x0000000000000000) ∧
  (temp 0xFFFF = 0x40601BC113333333 ∧
    f64Value (temp 0xFFFF) = 128.867318725585931815658113919198513031005859375) ∧
  (∀ a b : Raw, a.toNat < b.toNat → f64Value (temp a) < f64Value (temp b)) ∧
  ((∀ raw : Raw, (raw.toNat ≤ 0x4441 → f64Value (temp raw) < 0) ∧
      (0x4442 ≤ raw.toNat → 0 < f64Value (temp raw)) ∧ f64Value (temp raw) ≠ 0) ∧
    temp 0x4441 = 0xBF1828F5C2900000 ∧ temp 0x4442 = 0x3F6535C28F5C0000) ∧
  (∀ raw : Raw, (raw.toNat ≤ 2554 → f64Value (temp raw) < -40) ∧
    (64093 ≤ raw.toNat → 125 < f64Value (temp raw))) ∧
  ∀ (raw : Raw) (s : State), f64Value (temp raw) < -40 ∨ 125 < f64Value (temp raw) →
    ∃ t, exec (.chkt (rawHigh raw) (rawLow raw) (crc8 raw)) s = .next t ∧ t.status = some .ok ∧
      t.value = some (temp raw)

/-- Both conversions give finite normal numbers in the ranges of R92 (its lower end -46.85 read as T_OFF, log 15), and
no step of either chain leaves the normal numbers but for the exact zero at raw 0 (R92, R93). -/
def Obligations.ResultsAreNormal : Prop :=
  ∀ raw : Raw,
    (f64IsNormal (rh raw) = true ∧ -6 ≤ f64Value (rh raw) ∧ f64Value (rh raw) ≤ 118.9981 ∧
      0.000518798828125 ≤ |f64Value (rh raw)|) ∧
    (f64IsNormal (temp raw) = true ∧ f64Value tOff ≤ f64Value (temp raw) ∧ f64Value (temp raw) ≤ 128.8674 ∧
      0.000092163 ≤ |f64Value (temp raw)|) ∧
    (raw ≠ 0 → f64IsNormal (toF64 raw.toNat) = true ∧ f64IsNormal (quotient raw) = true ∧
      f64IsNormal (fmul rhScale (quotient raw)) = true ∧ f64IsNormal (fmul tScale (quotient raw)) = true) ∧
    (raw = 0 → fmul rhScale (quotient raw) = 0x0000000000000000)

/-- Temperature rounds twice: code 6 is the first at which the chain of R89 and the once-rounded formula differ
(R89, R90). -/
def Obligations.TempRoundsTwice : Prop :=
  temp 0x0006 = 0xC0476ABDA3D70A3E ∧ tempOnceRounded 0x0006 = 0xC0476ABDA3D70A3D ∧
  ∀ raw : Raw, raw.toNat < 6 → temp raw = tempOnceRounded raw

/-- The formulas at the quotient 1.0, which no raw code reaches (R96). -/
def Obligations.FormulasAtOne : Prop :=
  rhOfQuotient 0x3FF0000000000000 = 0x405DC00000000000 ∧
  f64Value (rhOfQuotient 0x3FF0000000000000) = 119 ∧
  tempOfQuotient 0x3FF0000000000000 = fadd tOff tScale ∧
  fadd tOff tScale = 0x40601BD70A3D70A4 ∧
  fadd tOff tScale = f64 false 12887 100 ∧
  f64Value (fadd tOff tScale) = 128.8700000000000045474735088646411895751953125 ∧
  ∀ raw : Raw, raw.toNat ≠ 65536 ∧ f64Value (quotient raw) < 1

/-! ### The requests (spec/42_requests.md) -/

/-- R99: CHKRH, whole: its word, the registers it writes, its two outcomes, its corner cases and its example. Every
operand, every state. -/
def Obligations.ChkrhResult : Prop :=
  (∀ (msb lsb crc : Byte) (s : State),
    encode (.chkrh msb lsb crc) = (0xE5 : Byte) ++ msb ++ lsb ++ crc ∧
    decode (encode (.chkrh msb lsb crc)) = .legal (.chkrh msb lsb crc) ∧
    ∃ t, exec (.chkrh msb lsb crc) s = .next t ∧
      t.kind = some .humidity ∧ t.raw = some (rawCode msb lsb) ∧
      t.crcCalc = some (crc8 (rawCode msb lsb)) ∧
      (crc8 (rawCode msb lsb) ≠ crc → t.status = some .checksumError ∧ t.value = none) ∧
      (crc8 (rawCode msb lsb) = crc → t.status = some .ok ∧ t.value = some (rh (rawCode msb lsb))) ∧
      t.inputs = s.inputs ∧ t.answers = s.answers) ∧
  (∀ s : State, ∃ t, exec (.chkrh 0x00 0x00 0x00) s = .next t ∧ t.status = some .ok ∧
    t.value = some 0xC018000000000000) ∧
  (∀ (crc : Byte) (s : State), ∃ t, exec (.chkrh 0xFF 0xFF crc) s = .next t ∧
    (t.status = some .ok ↔ crc = 0x2D) ∧ (crc = 0x2D → t.value = some 0x405DBFE0C0000000)) ∧
  (∀ (raw : Raw) (s : State), ∃ t, exec (.chkrh (rawHigh raw) (rawLow raw) (crc8 raw)) s = .next t ∧
    t.status = some .ok ∧ t.value = some (rh raw) ∧ (raw.toNat ≤ 3145 → f64Value (rh raw) < 0) ∧
    (55575 ≤ raw.toNat → 100 < f64Value (rh raw))) ∧
  (∀ (msb lsb crc : Byte) (s s' : State), ∃ t t', exec (.chkrh msb lsb crc) s = .next t ∧
    exec (.chkrh msb lsb crc) s' = .next t' ∧ registers t = registers t') ∧
  assemble (.chkrh 0x68 0x3A 0x7C) = some (.request 0xE5683A7C) ∧
  ∀ s : State, ∃ t, acceptRequest 0xE5683A7C s = .next t ∧
    registers t = ⟨some .ok, some .humidity, some 0x683A, some 0x7C, some 0x4046722900000000⟩

/-- R100: CHKT, whole: its word, the registers it writes, its two outcomes, its corner cases and its example. Every
operand, every state. -/
def Obligations.ChktResult : Prop :=
  (∀ (msb lsb crc : Byte) (s : State),
    encode (.chkt msb lsb crc) = (0xE3 : Byte) ++ msb ++ lsb ++ crc ∧
    decode (encode (.chkt msb lsb crc)) = .legal (.chkt msb lsb crc) ∧
    ∃ t, exec (.chkt msb lsb crc) s = .next t ∧
      t.kind = some .temperature ∧ t.raw = some (rawCode msb lsb) ∧
      t.crcCalc = some (crc8 (rawCode msb lsb)) ∧
      (crc8 (rawCode msb lsb) ≠ crc → t.status = some .checksumError ∧ t.value = none) ∧
      (crc8 (rawCode msb lsb) = crc → t.status = some .ok ∧ t.value = some (temp (rawCode msb lsb))) ∧
      t.inputs = s.inputs ∧ t.answers = s.answers) ∧
  (∀ s : State, ∃ t, exec (.chkt 0x00 0x00 0x00) s = .next t ∧ t.status = some .ok ∧
    t.value = some 0xC0476CCCCCCCCCCD) ∧
  (∀ s : State, ∃ t, exec (.chkt 0xFF 0xFF 0x2D) s = .next t ∧ t.status = some .ok ∧
    t.value = some 0x40601BC113333333) ∧
  (∀ (raw : Raw) (s : State), ∃ t, exec (.chkt (rawHigh raw) (rawLow raw) (crc8 raw)) s = .next t ∧
    t.status = some .ok ∧ t.value = some (temp raw) ∧ (raw.toNat ≤ 2554 → f64Value (temp raw) < -40) ∧
    (64093 ≤ raw.toNat → 125 < f64Value (temp raw))) ∧
  (∀ raw : Raw, temp raw = fadd tOff (fmul tScale (fdiv (toF64 raw.toNat) divisor))) ∧
  temp 0x0006 ≠ tempOnceRounded 0x0006 ∧
  assemble (.chkt 0x68 0x3A 0x7C) = some (.request 0xE3683A7C) ∧
  ∀ s : State, ∃ t, acceptRequest 0xE3683A7C s = .next t ∧
    registers t = ⟨some .ok, some .temperature, some 0x683A, some 0x7C, some 0x4038B11770A3D70A⟩

/-- R101: an illegal request, whole: STATUS and VALUE written, every other register as it was (none too), its operands
ignored, and its example. -/
def Obligations.IllegalResult : Prop :=
  (∀ (w : Word) (s : State), w.extractLsb' 24 8 ≠ 0xE5 → w.extractLsb' 24 8 ≠ 0xE3 →
    acceptRequest w s = .next { s with status := some .illegalOp, value := none }) ∧
  (∀ (op msb lsb crc : Byte) (s : State), op = 0xE6 ∨ op = 0xE7 ∨ op = 0xFE →
    acceptRequest (op ++ msb ++ lsb ++ crc) s = .next { s with status := some .illegalOp, value := none }) ∧
  (∀ w : Word, w.extractLsb' 24 8 ≠ 0xE5 → w.extractLsb' 24 8 ≠ 0xE3 →
    ∃ t, acceptRequest w powerUp = .next t ∧ t.kind = none ∧ t.raw = none ∧ t.crcCalc = none) ∧
  assemble (.req 0xE7 0x68 0x3A 0x7C) = some (.request 0xE7683A7C) ∧
  ∀ s : State, ∃ t u, acceptRequest 0xE5683A7C s = .next t ∧ acceptRequest 0xE7683A7C t = .next u ∧
    registers u = ⟨some .illegalOp, some .humidity, some 0x683A, some 0x7C, none⟩

/-- R102: a legal request's response state depends on its word alone. -/
def Obligations.LegalIndependent : Prop :=
  ∀ (w : Word) (i : Instr) (s s' : State), decode w = .legal i →
    ∃ t t', acceptRequest w s = .next t ∧ acceptRequest w s' = .next t' ∧ registers t = registers t' ∧
      t.status ≠ none ∧ t.kind ≠ none ∧ t.raw ≠ none ∧ t.crcCalc ≠ none

/-- R44: a read changes no register; every request writes STATUS and VALUE from its word alone; a legal one writes all
five so, an illegal one the other three not at all; giving any request twice leaves the same response state as once. -/
def Obligations.Idempotent : Prop :=
  (∀ (r : RegName) (s : State), registers (hostRead r s) = registers s) ∧
  (∀ (w : Word) (s s' : State), ∃ t t', acceptRequest w s = .next t ∧ acceptRequest w s' = .next t' ∧
    t.status = t'.status ∧ t.value = t'.value) ∧
  (∀ (w : Word) (i : Instr) (s s' : State), decode w = .legal i →
    ∃ t t', acceptRequest w s = .next t ∧ acceptRequest w s' = .next t' ∧ registers t = registers t') ∧
  (∀ (w : Word) (op : Byte) (s : State), decode w = .illegal op → ∃ t, acceptRequest w s = .next t ∧
    t.status = some .illegalOp ∧ t.value = none ∧ t.kind = s.kind ∧ t.raw = s.raw ∧ t.crcCalc = s.crcCalc) ∧
  ∀ (w : Word) (s : State), ∃ t u, acceptRequest w s = .next t ∧ acceptRequest w t = .next u ∧
    registers u = registers t

/-- R103: every request has exactly one outcome, and VALUE holds a datum with OK alone. -/
def Obligations.OneOutcome : Prop :=
  ∀ (w : Word) (s : State), ∃ t, acceptRequest w s = .next t ∧
    ((t.status = some .ok ∧ t.value ≠ none) ∨ (t.status = some .checksumError ∧ t.value = none) ∨
      (t.status = some .illegalOp ∧ t.value = none))

/-- The order of the checks (R109): the selector first, whatever the CRC byte; then the CRC; a match always converts. -/
def Obligations.CheckPrecedence : Prop :=
  ∀ (op msb lsb crc : Byte) (s : State), ∃ t, acceptRequest (packRequest op msb lsb crc) s = .next t ∧
    (legalOp op = false → t.status = some .illegalOp ∧ t.crcCalc = s.crcCalc) ∧
    (legalOp op = true → crc8 (rawCode msb lsb) ≠ crc → t.status = some .checksumError) ∧
    (legalOp op = true → crc8 (rawCode msb lsb) = crc →
      t.status = some .ok ∧ ∃ v, t.value = some v ∧ f64IsNormal v = true)

/-- R94: VALUE receives rh or temp unchanged with STATUS OK, inside and outside the ranges, and the SATURATED code is
never written. -/
def Obligations.PassThrough : Prop :=
  (∀ (raw : Raw) (s : State),
    (∃ t, exec (.chkrh (rawHigh raw) (rawLow raw) (crc8 raw)) s = .next t ∧ t.status = some .ok ∧
      t.value = some (rh raw)) ∧
    ∃ t, exec (.chkt (rawHigh raw) (rawLow raw) (crc8 raw)) s = .next t ∧ t.status = some .ok ∧
      t.value = some (temp raw)) ∧
  (∃ raw, f64Value (rh raw) < 0) ∧ (∃ raw, 100 < f64Value (rh raw)) ∧
  (∃ raw, f64Value (temp raw) < -40) ∧ (∃ raw, 125 < f64Value (temp raw)) ∧
  ∀ st : Status, statusCode st ≠ 4

/-- The received CRC byte leaves no trace but the outcome of the comparison (R27), and an illegal request leaves none
of its selector and operands (R107). -/
def Obligations.NothingElseRecorded : Prop :=
  (∀ (msb lsb c c' : Byte) (s : State), crcOk (rawCode msb lsb) c = crcOk (rawCode msb lsb) c' →
    (∃ t, exec (.chkrh msb lsb c) s = .next t ∧ exec (.chkrh msb lsb c') s = .next t) ∧
    ∃ t, exec (.chkt msb lsb c) s = .next t ∧ exec (.chkt msb lsb c') s = .next t) ∧
  ∀ (op op' msb lsb crc msb' lsb' crc' : Byte) (s : State), legalOp op = false → legalOp op' = false →
    ∃ t, acceptRequest (packRequest op msb lsb crc) s = .next t ∧
      acceptRequest (packRequest op' msb' lsb' crc') s = .next t

/-- The frame of CHKRH and CHKT (any of the five registers may change, nothing else) and of an illegal request (KIND,
RAW and CRC_CALC too stay as they were) (R19, R98, R101). -/
def Obligations.RequestFrame : Prop :=
  (∀ (i : Instr) (s t : State), exec i s = .next t → t.inputs = s.inputs ∧ t.answers = s.answers) ∧
  (∀ (op : Byte) (s t : State), execIllegal op s = .next t →
    t.kind = s.kind ∧ t.raw = s.raw ∧ t.crcCalc = s.crcCalc ∧ t.inputs = s.inputs ∧ t.answers = s.answers)

/-- The request an assembler makes with `.good` always passes the check, from any state (R65, R78). -/
def Obligations.GoodRequestsPass : Prop :=
  ∀ (raw : Raw) (s : State),
    (∃ w t, assemble (.chkrhGood raw.toNat) = some (.request w) ∧ acceptRequest w s = .next t ∧
      registers t = ⟨some .ok, some .humidity, some raw, some (crc8 raw), some (rh raw)⟩) ∧
    ∃ w t, assemble (.chktGood raw.toNat) = some (.request w) ∧ acceptRequest w s = .next t ∧
      registers t = ⟨some .ok, some .temperature, some raw, some (crc8 raw), some (temp raw)⟩

/-! ### Reset, reads and faults (spec/10_state.md, spec/60_exceptions.md, spec/70_reset_and_hazards.md) -/

/-- The reset input writes the five reset values at once, from any state, any number of times, between any two
events; the next request is accepted at once (R121). That it keeps the answers, with the faults recorded among them,
and the events still pending is the model's reading of R113 (DEDUCED, log 13). -/
def Obligations.ResetInput : Prop :=
  (∀ (s : State) (rest : List HostEvent), s.inputs = .reset :: rest →
    step s = .next { s with status := some .idle, kind := some .none, raw := some 0x0000, crcCalc := some 0x00,
                            value := none, inputs := rest }) ∧
  (statusCode .idle = 0 ∧ kindCode .none = 0) ∧
  (∀ s : State, registers (assertReset s) = registers State.reset ∧
    assertReset (assertReset s) = assertReset s) ∧
  ∀ (s : State) (w : Word) (rest : List HostEvent), s.inputs = .reset :: .request w :: rest →
    ∃ t u, step s = .next t ∧ step t = .next u ∧
      acceptRequest w { assertReset s with inputs := rest } = .next u

/-- The reset values of R22 to R26, as R34 lists them, with nothing pending and nothing answered (log 1, log 3). -/
def Obligations.ResetValues : Prop :=
  State.reset.status.map statusCode = some 0 ∧ State.reset.kind.map kindCode = some 0 ∧
  State.reset.raw = some 0x0000 ∧ State.reset.crcCalc = some 0x00 ∧ State.reset.value = none ∧
  State.reset.crcCalc = State.reset.raw.map crc8 ∧
  State.reset.inputs = [] ∧ State.reset.answers = []

/-- At power-up every response register holds none; a request before the first reset defines only the registers it
writes; a read of a none cell is a model fault (R33). That the fault is `Unreset` for VALUE too, where R113 also names
`ValueUnset`, is the model's reading (DEDUCED, log 8). -/
def Obligations.PowerUp : Prop :=
  registers powerUp = ⟨none, none, none, none, none⟩ ∧
  (∀ (w : Word) (op : Byte), decode w = .illegal op → ∃ t, acceptRequest w powerUp = .next t ∧
    registers t = ⟨some .illegalOp, none, none, none, none⟩) ∧
  (∀ (w : Word) (i : Instr), decode w = .legal i → ∃ t, acceptRequest w powerUp = .next t ∧ Booted t) ∧
  ∀ r : RegName, readReg r powerUp = .fault .unreset

/-- The sensor's soft-reset command 0xFE is an illegal request and does not reset the block (R124): RAW, KIND and
CRC_CALC stay, and STATUS is not IDLE. -/
def Obligations.SoftResetIsIllegal : Prop :=
  ∀ (msb lsb crc : Byte) (s : State) (rest : List HostEvent),
    s.inputs = .request (packRequest 0xFE msb lsb crc) :: rest →
    step s = .next { s with status := some .illegalOp, value := none, inputs := rest }

/-- Any register may be read at any time; the read completes, has no side effect on a register and answers the whole
register; only a request and reset change a register (R29). That a read of an empty cell is a next state with the
fault of R113 recorded as its answer is the model's reading (DEDUCED, log 3). -/
def Obligations.HostReads : Prop :=
  (∀ (r : RegName) (s : State) (rest : List HostEvent), s.inputs = .read r :: rest →
    ∃ t, step s = .next t ∧ registers t = registers s ∧ t.inputs = rest ∧
      t.answers = s.answers ++ [readReg r s]) ∧
  (∀ s : State, (∀ v, s.status = some v → readReg .status s = .status v) ∧
    (∀ v, s.kind = some v → readReg .kind s = .kind v) ∧ (∀ v, s.raw = some v → readReg .raw s = .raw v) ∧
    (∀ v, s.crcCalc = some v → readReg .crcCalc s = .crcCalc v) ∧
    ∀ v, s.value = some v → readReg .value s = .value v) ∧
  ∀ s t : State, step s = .next t → registers t ≠ registers s →
    ∃ rest, s.inputs = .reset :: rest ∨ ∃ w, s.inputs = .request w :: rest

/-- `ValueUnset` is what a read of VALUE raises once STATUS has been written and is not OK: after reset, after a
checksum error, after an illegal request (R113). The premise is the invariant of `InvariantKept`. -/
def Obligations.ValueUnsetReads : Prop :=
  ∀ s : State, Inv s → ∀ st, s.status = some st →
    (readReg .value s = .fault .valueUnset ↔ st ≠ .ok) ∧
    (st = .ok → ∃ v, readReg .value s = .value v)

/-- `Unreset` is what a read of a register not written since power-up raises; VALUE counts as written once STATUS is
(the model's reading, log 8) (R113). The premise is the invariant of `WrittenTogether`. -/
def Obligations.UnresetReads : Prop :=
  ∀ s : State, CellsTogether s →
    (readReg .status s = .fault .unreset ↔ s.status = none) ∧
    (readReg .kind s = .fault .unreset ↔ s.kind = none) ∧
    (readReg .raw s = .fault .unreset ↔ s.raw = none) ∧
    (readReg .crcCalc s = .fault .unreset ↔ s.crcCalc = none) ∧
    (readReg .value s = .fault .unreset ↔ s.status = none)

/-- A recorded fault is never cleared by a later step, a reset included, and neither is any answer; only a read adds
one, so a request and a reset never raise a model fault (R113). -/
def Obligations.FaultsStayRecorded : Prop :=
  ∀ s t : State, step s = .next t →
    recordedFaults s <+: recordedFaults t ∧ s.answers <+: t.answers ∧
    ((∀ r rest, s.inputs ≠ .read r :: rest) → t.answers = s.answers)

/-- The invariants of R35 hold in the reset state and at power-up. -/
def Obligations.InvariantAtReset : Prop := Inv State.reset ∧ Inv powerUp

/-- Every step keeps the invariants of R35, in every state that has them. -/
def Obligations.InvariantKept : Prop := ∀ s t : State, Inv s → step s = .next t → Inv t

/-- KIND, RAW and CRC_CALC are written together, and not before STATUS: so at reset, at power-up and after every step
from a state in which it is so (R33, R35, R98). -/
def Obligations.WrittenTogether : Prop :=
  CellsTogether State.reset ∧ CellsTogether powerUp ∧
  ∀ s t : State, CellsTogether s → step s = .next t → CellsTogether t

/-- A reset or a legal request gives every register but VALUE a value, every later step keeps it so, and no read then
raises `Unreset` (R125). -/
def Obligations.BootedStays : Prop :=
  (∀ s : State, Booted (assertReset s)) ∧
  (∀ (i : Instr) (s : State), ∃ t, exec i s = .next t ∧ Booted t) ∧
  (∀ s t : State, Booted s → step s = .next t → Booted t) ∧
  ∀ (s : State) (r : RegName), Booted s → readReg r s ≠ .fault .unreset

/-! ### The step (spec/20_memory.md, spec/70_reset_and_hazards.md) -/

/-- A step whose next event is a request word that decodes to a well-formed request runs exactly that request, in the
state without that event; the block has no program counter to move (R21). -/
def Obligations.StepRunsDecoded : Prop :=
  ∀ (s : State) (w : Word) (i : Instr) (rest : List HostEvent),
    s.inputs = .request w :: rest → decode w = .legal i → instrWellFormed i = true →
    step s = exec i { s with inputs := rest }

/-- With no event pending a step changes nothing (the model's reading of R126 and R127, log 2). -/
def Obligations.IdleStep : Prop := ∀ s : State, s.inputs = [] → step s = .next s

/-- No outcome stops the block: every step from every state is a next state and takes exactly the oldest event
(R61, R105, R113). -/
def Obligations.StepNeverStops : Prop :=
  ∀ s : State, ∃ t, step s = .next t ∧ t.inputs = s.inputs.tail

/-- Events take effect one at a time in the order issued (R47): the steps that take the first events depend on no
later one, and those then follow from the state the earlier ones left. -/
def Obligations.EventsInOrder : Prop :=
  ∀ (s : State) (xs ys : List HostEvent), s.inputs = xs ++ ys →
    ∃ u, core.run xs.length { s with inputs := xs } = .next u ∧ u.inputs = [] ∧
      core.run xs.length s = .next { u with inputs := ys } ∧
      core.run (xs ++ ys).length s = core.run ys.length { u with inputs := ys }

/-- A run of any finite sequence of events ends after its last element, from any state: nothing pending, one more
answer for each read (R130). The run of R130, one reset from power-up and then any events, ends so too. -/
def Obligations.RunsEnd : Prop :=
  (∀ s : State, ∃ t, core.run s.inputs.length s = .next t ∧ t.inputs = [] ∧
    t.answers.length = s.answers.length + s.inputs.countP isRead) ∧
  ∀ es : List HostEvent, ∃ t, hostRun es = .next t ∧ t.inputs = [] ∧ t.answers.length = es.countP isRead ∧
    Inv t

/-- After a reset nothing of the earlier registers remains: two runs that begin with a reset, from states with any
registers but the same answers so far, have the same observation (R19, R121, R130). -/
def Obligations.ResetForgets : Prop :=
  ∀ (s s' : State) (es : List HostEvent),
    s.inputs = .reset :: es → s'.inputs = .reset :: es → s.answers = s'.answers →
    ∃ t t', core.run (es.length + 1) s = .next t ∧ core.run (es.length + 1) s' = .next t' ∧
      observe t = observe t'

/-- R36: each instance has its own registers: a step of one leaves every other as it was, and its own is its step. -/
def Obligations.InstancesIndependent : Prop :=
  ∀ (sys : System) (k : Nat) (s : State), sys[k]? = some s →
    ∃ sys' t, stepInstance k sys = some sys' ∧ step s = .next t ∧ sys'[k]? = some t ∧
      ∀ j, j ≠ k → sys'[j]? = sys[j]?
end

