-- ==== Sys2Proof/Laws/Binary64.lean ====
section
/-! SUPPORT. Binary64: packing and unpacking agree, and what each operation does on finite operands, said once. -/

namespace Sys2Proof.Machine

theorem packF64_toNat (neg : Bool) {mag : Nat} (h : mag < 2 ^ 63) :
    (packF64 neg mag).toNat = (if neg then 2 ^ 63 else 0) + mag := by
  rw [packF64, BitVec.toNat_ofNat]
  apply Nat.mod_eq_of_lt
  split <;> omega

theorem f64Exp_packF64 (neg : Bool) {mag : Nat} (h : mag < 2 ^ 63) :
    f64Exp (packF64 neg mag) = mag / 2 ^ 52 := by
  rw [f64Exp, BitVec.extractLsb'_toNat, packF64_toNat neg h, Nat.shiftRight_eq_div_pow]
  cases neg <;> simp <;> omega

theorem f64Frac_packF64 (neg : Bool) {mag : Nat} (h : mag < 2 ^ 63) :
    f64Frac (packF64 neg mag) = mag % 2 ^ 52 := by
  rw [f64Frac, BitVec.extractLsb'_toNat, packF64_toNat neg h, Nat.shiftRight_eq_div_pow]
  cases neg <;> simp
  omega

theorem f64Neg_packF64 (neg : Bool) {mag : Nat} (h : mag < 2 ^ 63) : f64Neg (packF64 neg mag) = neg := by
  rw [f64Neg, BitVec.getLsbD, packF64_toNat neg h, Nat.testBit_eq_decide_div_mod_eq]
  cases neg <;> simp <;> omega

/-- The encoding `k * 2^52 + q` of a significand `q` in [2^52, 2^53) at shift `k` is `q * 2^k` units. -/
theorem f64Mag_packF64_normal (neg : Bool) {k q : Nat} (hq : 2 ^ 52 ≤ q) (hq' : q < 2 ^ 53)
    (hk : k * 2 ^ 52 + q < 2 ^ 63) : f64Mag (packF64 neg (k * 2 ^ 52 + q)) = q * 2 ^ k := by
  have h1 : (k * 2 ^ 52 + q) / 2 ^ 52 = k + 1 := by omega
  have h2 : (k * 2 ^ 52 + q) % 2 ^ 52 = q - 2 ^ 52 := by omega
  have h3 : 2 ^ 52 + (q - 2 ^ 52) = q := by omega
  rw [f64Mag, f64Exp_packF64 neg hk, f64Frac_packF64 neg hk, h1, h2, h3]
  simp

/-- The encoding of a subnormal significand is the significand. -/
theorem f64Mag_packF64_subnormal (neg : Bool) {q : Nat} (hq : q < 2 ^ 52) : f64Mag (packF64 neg q) = q := by
  have h : q < 2 ^ 63 := by omega
  have h1 : q / 2 ^ 52 = 0 := by omega
  have h2 : q % 2 ^ 52 = q := by omega
  rw [f64Mag, f64Exp_packF64 neg h, f64Frac_packF64 neg h, h1, h2]
  simp

/-- Rounding never passes an infinity. -/
theorem roundMag_le (num den : Nat) : roundMag num den ≤ f64InfMag := Nat.min_le_right _ _

theorem roundMag_lt (num den : Nat) : roundMag num den < 2 ^ 63 :=
  Nat.lt_of_le_of_lt (roundMag_le num den) (by decide)

theorem f64Neg_roundF64 (neg : Bool) (num den : Nat) : f64Neg (roundF64 neg num den) = neg :=
  f64Neg_packF64 neg (roundMag_lt num den)

/-- A number that is no NaN and no infinity has an exponent that is not all ones. -/
theorem f64_finite {v : Binary64} (h : f64Exp v ≠ 2047) : f64IsNaN v = false ∧ f64IsInf v = false := by
  simp [f64IsNaN, f64IsInf, h]

/-- Addition of finite data: the exact sum of units, rounded once. -/
theorem fadd_finite {a b : Binary64} (ha : f64Exp a ≠ 2047) (hb : f64Exp b ≠ 2047) :
    fadd a b = if f64Int a + f64Int b = 0 then packF64 (f64Neg a && f64Neg b) 0
      else roundF64 (decide (f64Int a + f64Int b < 0)) (f64Int a + f64Int b).natAbs 1 := by
  simp [fadd, f64_finite ha, f64_finite hb]

/-- Multiplication of finite data: the exact product, rounded once. -/
theorem fmul_finite {a b : Binary64} (ha : f64Exp a ≠ 2047) (hb : f64Exp b ≠ 2047) :
    fmul a b = roundF64 (f64Neg a ^^ f64Neg b) (f64Mag a * f64Mag b) f64Unit := by
  simp [fmul, f64_finite ha, f64_finite hb]

/-- Division of finite data by one that is not zero: the exact quotient, rounded once. -/
theorem fdiv_finite {a b : Binary64} (ha : f64Exp a ≠ 2047) (hb : f64Exp b ≠ 2047) (hz : f64IsZero b = false) :
    fdiv a b = roundF64 (f64Neg a ^^ f64Neg b) (f64Mag a * f64Unit) (f64Mag b) := by
  simp [fdiv, f64_finite ha, f64_finite hb, hz]

end Sys2Proof.Machine
end

