-- ==== Sys2Proof/Laws/Decode.lean ====
section
/-! SUPPORT. Decode: the fields of a packed request. -/

namespace Sys2Proof

/-- The number a packed request is: each field at its place (R55). -/
theorem packRequest_toNat (op msb lsb crc : Byte) :
    (packRequest op msb lsb crc).toNat
      = op.toNat * 2 ^ 24 + msb.toNat * 2 ^ 16 + lsb.toNat * 2 ^ 8 + crc.toNat := by
  have h1 := msb.isLt
  have h2 := lsb.isLt
  have h3 := crc.isLt
  have h : (packRequest op msb lsb crc).toNat
      = ((op.toNat <<< 8 ||| msb.toNat) <<< 8 ||| lsb.toNat) <<< 8 ||| crc.toNat := by
    unfold packRequest
    exact (BitVec.toNat_append _ _).trans (by rw [BitVec.toNat_append, BitVec.toNat_append])
  rw [h, ← Nat.shiftLeft_add_eq_or_of_lt h1, ← Nat.shiftLeft_add_eq_or_of_lt h2,
    ← Nat.shiftLeft_add_eq_or_of_lt h3]
  simp only [Nat.shiftLeft_eq]
  omega

/-- The selector of a packed request (R55). -/
@[simp] theorem opField_packRequest (op msb lsb crc : Byte) : opField (packRequest op msb lsb crc) = op := by
  apply BitVec.eq_of_toNat_eq
  have h1 := msb.isLt
  have h2 := lsb.isLt
  have h3 := crc.isLt
  have h4 := op.isLt
  unfold opField
  rw [BitVec.extractLsb'_toNat, packRequest_toNat, Nat.shiftRight_eq_div_pow]
  omega

/-- The first operand of a packed request (R55). -/
@[simp] theorem msbField_packRequest (op msb lsb crc : Byte) : msbField (packRequest op msb lsb crc) = msb := by
  apply BitVec.eq_of_toNat_eq
  have h1 := msb.isLt
  have h2 := lsb.isLt
  have h3 := crc.isLt
  have h4 := op.isLt
  unfold msbField
  rw [BitVec.extractLsb'_toNat, packRequest_toNat, Nat.shiftRight_eq_div_pow]
  omega

/-- The second operand of a packed request (R55). -/
@[simp] theorem lsbField_packRequest (op msb lsb crc : Byte) : lsbField (packRequest op msb lsb crc) = lsb := by
  apply BitVec.eq_of_toNat_eq
  have h1 := msb.isLt
  have h2 := lsb.isLt
  have h3 := crc.isLt
  have h4 := op.isLt
  unfold lsbField
  rw [BitVec.extractLsb'_toNat, packRequest_toNat, Nat.shiftRight_eq_div_pow]
  omega

/-- The third operand of a packed request (R55). -/
@[simp] theorem crcField_packRequest (op msb lsb crc : Byte) : crcField (packRequest op msb lsb crc) = crc := by
  apply BitVec.eq_of_toNat_eq
  have h1 := msb.isLt
  have h2 := lsb.isLt
  have h3 := crc.isLt
  have h4 := op.isLt
  unfold crcField
  rw [BitVec.extractLsb'_toNat, packRequest_toNat, Nat.shiftRight_eq_div_pow]
  omega

end Sys2Proof
end

