-- ==== Sys2Proof/Laws/State.lean ====
section
/-! SUPPORT. State: one lemma per field per update, so that no later proof unfolds a record update. -/

namespace Sys2Proof.Machine

@[simp] theorem report_status (c : Status) (s : State) :
    (report c s).status = some c := rfl
@[simp] theorem report_kind (c : Status) (s : State) :
    (report c s).kind = s.kind := rfl
@[simp] theorem report_raw (c : Status) (s : State) :
    (report c s).raw = s.raw := rfl
@[simp] theorem report_crcCalc (c : Status) (s : State) :
    (report c s).crcCalc = s.crcCalc := rfl
@[simp] theorem report_value (c : Status) (s : State) :
    (report c s).value = s.value := rfl
@[simp] theorem report_inputs (c : Status) (s : State) :
    (report c s).inputs = s.inputs := rfl
@[simp] theorem report_answers (c : Status) (s : State) :
    (report c s).answers = s.answers := rfl

@[simp] theorem writeValue_status (v : Option Binary64) (s : State) :
    (writeValue v s).status = s.status := rfl
@[simp] theorem writeValue_kind (v : Option Binary64) (s : State) :
    (writeValue v s).kind = s.kind := rfl
@[simp] theorem writeValue_raw (v : Option Binary64) (s : State) :
    (writeValue v s).raw = s.raw := rfl
@[simp] theorem writeValue_crcCalc (v : Option Binary64) (s : State) :
    (writeValue v s).crcCalc = s.crcCalc := rfl
@[simp] theorem writeValue_value (v : Option Binary64) (s : State) :
    (writeValue v s).value = v := rfl
@[simp] theorem writeValue_inputs (v : Option Binary64) (s : State) :
    (writeValue v s).inputs = s.inputs := rfl
@[simp] theorem writeValue_answers (v : Option Binary64) (s : State) :
    (writeValue v s).answers = s.answers := rfl

@[simp] theorem writeChecked_status (k : Kind) (r : Raw) (c : Byte) (s : State) :
    (writeChecked k r c s).status = s.status := rfl
@[simp] theorem writeChecked_kind (k : Kind) (r : Raw) (c : Byte) (s : State) :
    (writeChecked k r c s).kind = some k := rfl
@[simp] theorem writeChecked_raw (k : Kind) (r : Raw) (c : Byte) (s : State) :
    (writeChecked k r c s).raw = some r := rfl
@[simp] theorem writeChecked_crcCalc (k : Kind) (r : Raw) (c : Byte) (s : State) :
    (writeChecked k r c s).crcCalc = some c := rfl
@[simp] theorem writeChecked_value (k : Kind) (r : Raw) (c : Byte) (s : State) :
    (writeChecked k r c s).value = s.value := rfl
@[simp] theorem writeChecked_inputs (k : Kind) (r : Raw) (c : Byte) (s : State) :
    (writeChecked k r c s).inputs = s.inputs := rfl
@[simp] theorem writeChecked_answers (k : Kind) (r : Raw) (c : Byte) (s : State) :
    (writeChecked k r c s).answers = s.answers := rfl

@[simp] theorem assertReset_status (s : State) :
    (assertReset s).status = some .idle := rfl
@[simp] theorem assertReset_kind (s : State) :
    (assertReset s).kind = some .none := rfl
@[simp] theorem assertReset_raw (s : State) :
    (assertReset s).raw = some 0x0000 := rfl
@[simp] theorem assertReset_crcCalc (s : State) :
    (assertReset s).crcCalc = some 0x00 := rfl
@[simp] theorem assertReset_value (s : State) :
    (assertReset s).value = none := rfl
@[simp] theorem assertReset_inputs (s : State) :
    (assertReset s).inputs = s.inputs := rfl
@[simp] theorem assertReset_answers (s : State) :
    (assertReset s).answers = s.answers := rfl

@[simp] theorem hostRead_status (r : RegName) (s : State) :
    (hostRead r s).status = s.status := rfl
@[simp] theorem hostRead_kind (r : RegName) (s : State) :
    (hostRead r s).kind = s.kind := rfl
@[simp] theorem hostRead_raw (r : RegName) (s : State) :
    (hostRead r s).raw = s.raw := rfl
@[simp] theorem hostRead_crcCalc (r : RegName) (s : State) :
    (hostRead r s).crcCalc = s.crcCalc := rfl
@[simp] theorem hostRead_value (r : RegName) (s : State) :
    (hostRead r s).value = s.value := rfl
@[simp] theorem hostRead_inputs (r : RegName) (s : State) :
    (hostRead r s).inputs = s.inputs := rfl
@[simp] theorem hostRead_answers (r : RegName) (s : State) :
    (hostRead r s).answers = s.answers ++ [readReg r s] := rfl

@[simp] theorem issue_status (es : List HostEvent) (s : State) :
    (issue es s).status = s.status := rfl
@[simp] theorem issue_kind (es : List HostEvent) (s : State) :
    (issue es s).kind = s.kind := rfl
@[simp] theorem issue_raw (es : List HostEvent) (s : State) :
    (issue es s).raw = s.raw := rfl
@[simp] theorem issue_crcCalc (es : List HostEvent) (s : State) :
    (issue es s).crcCalc = s.crcCalc := rfl
@[simp] theorem issue_value (es : List HostEvent) (s : State) :
    (issue es s).value = s.value := rfl
@[simp] theorem issue_inputs (es : List HostEvent) (s : State) :
    (issue es s).inputs = s.inputs ++ es := rfl
@[simp] theorem issue_answers (es : List HostEvent) (s : State) :
    (issue es s).answers = s.answers := rfl

@[simp] theorem withFetchWord_status (s : State) (n w : Nat) :
    (s.withFetchWord n w).status = s.status := rfl
@[simp] theorem withFetchWord_kind (s : State) (n w : Nat) :
    (s.withFetchWord n w).kind = s.kind := rfl
@[simp] theorem withFetchWord_raw (s : State) (n w : Nat) :
    (s.withFetchWord n w).raw = s.raw := rfl
@[simp] theorem withFetchWord_crcCalc (s : State) (n w : Nat) :
    (s.withFetchWord n w).crcCalc = s.crcCalc := rfl
@[simp] theorem withFetchWord_value (s : State) (n w : Nat) :
    (s.withFetchWord n w).value = s.value := rfl
@[simp] theorem withFetchWord_inputs (s : State) (n w : Nat) :
    (s.withFetchWord n w).inputs = .request (BitVec.ofNat 32 (w % 2 ^ n)) :: s.inputs := rfl
@[simp] theorem withFetchWord_answers (s : State) (n w : Nat) :
    (s.withFetchWord n w).answers = s.answers := rfl

/-- A read, an issued event and a placed request leave the response state alone. -/
@[simp] theorem registers_hostRead (r : RegName) (s : State) : registers (hostRead r s) = registers s := rfl
@[simp] theorem registers_issue (es : List HostEvent) (s : State) : registers (issue es s) = registers s := rfl
@[simp] theorem registers_withFetchWord (s : State) (n w : Nat) :
    registers (s.withFetchWord n w) = registers s := rfl

/-- The reset input brings the reset registers, whatever the state. -/
@[simp] theorem registers_assertReset (s : State) : registers (assertReset s) = registers State.reset := rfl

/-- The response states of two blocks are equal when their five registers are. -/
theorem registers_eq_iff (s t : State) : registers s = registers t ↔
    s.status = t.status ∧ s.kind = t.kind ∧ s.raw = t.raw ∧ s.crcCalc = t.crcCalc ∧ s.value = t.value := by
  simp [registers]

end Sys2Proof.Machine
end

