-- ==== Sys2Proof/Laws/Ops.lean ====
section
/-! SUPPORT. Ops: what each shared operation can do, said once. -/

namespace Sys2Proof.Machine

theorem takeEvent_nil {s : State} (h : s.inputs = []) : takeEvent s = none := by
  simp [takeEvent, h]

theorem takeEvent_cons {s : State} {e : HostEvent} {rest : List HostEvent} (h : s.inputs = e :: rest) :
    takeEvent s = some (e, { s with inputs := rest }) := by
  simp [takeEvent, h]

/-- A read of a cell that holds a value answers it; a read of an empty one answers a fault. -/
theorem readReg_status (s : State) :
    readReg .status s = (s.status.elim (.fault .unreset) .status) := by
  cases h : s.status <;> simp [readReg, h]

theorem readReg_kind (s : State) : readReg .kind s = (s.kind.elim (.fault .unreset) .kind) := by
  cases h : s.kind <;> simp [readReg, h]

theorem readReg_raw (s : State) : readReg .raw s = (s.raw.elim (.fault .unreset) .raw) := by
  cases h : s.raw <;> simp [readReg, h]

theorem readReg_crcCalc (s : State) : readReg .crcCalc s = (s.crcCalc.elim (.fault .unreset) .crcCalc) := by
  cases h : s.crcCalc <;> simp [readReg, h]

theorem readReg_value (s : State) : readReg .value s = (s.value.elim (.fault (valueFault s)) .value) := by
  cases h : s.value <;> simp [readReg, h]

theorem valueFault_eq (s : State) : valueFault s = if s.status = none then .unreset else .valueUnset := by
  cases h : s.status <;> simp [valueFault, h]

/-- A read adds the fault it raised, if any, behind the faults recorded before. -/
theorem recordedFaults_hostRead (r : RegName) (s : State) :
    recordedFaults (hostRead r s) = recordedFaults s ++ (answerFault (readReg r s)).toList := by
  cases h : answerFault (readReg r s) <;> simp [recordedFaults, List.filterMap_append, h]

/-- The check succeeds for the computed byte alone. -/
theorem crcOk_iff (raw : Raw) (c : Byte) : crcOk raw c = true ↔ crc8 raw = c := by
  simp [crcOk]

/-- One CRC iteration is a shift and, where the top bit was set, an XOR. -/
theorem crcStep_eq (w : CrcReg) : crcStep w = (w <<< 1) ^^^ (if w.getLsbD 15 then poly else 0) := by
  unfold crcStep
  split <;> simp

/-- A matched check: OK with the converted value. -/
theorem checkConvert_match (kind : Kind) (convert : Raw → Binary64) (raw : Raw) (s : State) :
    checkConvert kind convert raw (crc8 raw) s
      = { s with status := some .ok, kind := some kind, raw := some raw, crcCalc := some (crc8 raw),
                 value := some (convert raw) } := by
  simp [checkConvert, crcOk, report, writeValue, writeChecked]

/-- A failed check: CHECKSUM_ERROR and no value, with the checked registers written all the same. -/
theorem checkConvert_mismatch (kind : Kind) (convert : Raw → Binary64) (raw : Raw) (c : Byte) (s : State)
    (h : crc8 raw ≠ c) :
    checkConvert kind convert raw c s
      = { s with status := some .checksumError, kind := some kind, raw := some raw,
                 crcCalc := some (crc8 raw), value := none } := by
  simp [checkConvert, crcOk, h, report, writeValue, writeChecked]

/-- Everything a checked conversion can do: it ends in one of the two outcomes. -/
theorem checkConvert_cases (kind : Kind) (convert : Raw → Binary64) (raw : Raw) (c : Byte) (s : State) :
    (crc8 raw = c ∧ checkConvert kind convert raw c s
      = { s with status := some .ok, kind := some kind, raw := some raw, crcCalc := some (crc8 raw),
                 value := some (convert raw) }) ∨
    (crc8 raw ≠ c ∧ checkConvert kind convert raw c s
      = { s with status := some .checksumError, kind := some kind, raw := some raw,
                 crcCalc := some (crc8 raw), value := none }) := by
  by_cases h : crc8 raw = c
  · subst h
    exact .inl ⟨rfl, checkConvert_match kind convert raw s⟩
  · exact .inr ⟨h, checkConvert_mismatch kind convert raw c s h⟩

/-- The bits of a raw code: LSB below, MSB above. -/
theorem rawCode_getLsbD (msb lsb : Byte) (i : Nat) :
    (rawCode msb lsb).getLsbD i = if i < 8 then lsb.getLsbD i else msb.getLsbD (i - 8) :=
  BitVec.getLsbD_append

@[simp] theorem rawHigh_rawCode (msb lsb : Byte) : rawHigh (rawCode msb lsb) = msb := by
  apply BitVec.eq_of_getLsbD_eq
  intro i hi
  simp [rawHigh, rawCode_getLsbD, hi]

@[simp] theorem rawLow_rawCode (msb lsb : Byte) : rawLow (rawCode msb lsb) = lsb := by
  apply BitVec.eq_of_getLsbD_eq
  intro i hi
  simp [rawLow, rawCode_getLsbD, hi]

@[simp] theorem rawCode_split (raw : Raw) : rawCode (rawHigh raw) (rawLow raw) = raw := by
  apply BitVec.eq_of_getLsbD_eq
  intro i hi
  rw [rawCode_getLsbD]
  split
  · simp_all [rawLow]
  · have h8 : 8 + (i - 8) = i := by omega
    have h9 : i - 8 < 8 := by omega
    simp [rawHigh, h8, h9]

end Sys2Proof.Machine
end

