-- ==== Sys2Proof/Laws/PerInstr.lean ====
section
/-! SUPPORT. PerInstr: the statement families over the instructions, one lemma a constructor. -/

namespace Sys2Proof.Laws

/-- The word of a well-formed request is well formed: its selector is legal (spec/30_encoding.md R57, R60). -/
def EncodeWellFormed.Statement (i : Instr) : Prop :=
  instrWellFormed i = true → wordWellFormed (encode i) = true

theorem EncodeWellFormed.chkrh (msb lsb crc : Byte) : EncodeWellFormed.Statement (.chkrh msb lsb crc) := by
  intro _
  have h := opField_packRequest opChkrh msb lsb crc
  simp_all [wordWellFormed, encode, opField, opChkrh, legalOp]

theorem EncodeWellFormed.chkt (msb lsb crc : Byte) : EncodeWellFormed.Statement (.chkt msb lsb crc) := by
  intro _
  have h := opField_packRequest opChkt msb lsb crc
  simp_all [wordWellFormed, encode, opField, opChkt, legalOp]

end Sys2Proof.Laws
end

