-- ==== Sys2Proof/Laws/Step.lean ====
section
/-! SUPPORT. Step: what a request and a step can do, said once; later proofs cite these and never unfold `step`. -/

namespace Sys2Proof.Machine

/-- Every request has an outcome: `exec` answers a checked conversion of its operands. -/
theorem exec_cases (i : Instr) (s : State) :
    (∃ msb lsb crc, i = .chkrh msb lsb crc ∧
      exec i s = .next (checkConvert .humidity rh (rawCode msb lsb) crc s)) ∨
    (∃ msb lsb crc, i = .chkt msb lsb crc ∧
      exec i s = .next (checkConvert .temperature temp (rawCode msb lsb) crc s)) := by
  cases i with
  | chkrh msb lsb crc => exact .inl ⟨msb, lsb, crc, rfl, rfl⟩
  | chkt msb lsb crc => exact .inr ⟨msb, lsb, crc, rfl, rfl⟩

/-- A decoded request runs; an illegal one writes STATUS and VALUE. -/
theorem acceptRequest_legal {w : Word} {i : Instr} (h : decode w = .legal i) (s : State) :
    acceptRequest w s = exec i s := by
  simp [acceptRequest, h]

theorem acceptRequest_illegal {w : Word} {op : Byte} (h : decode w = .illegal op) (s : State) :
    acceptRequest w s = .next { s with status := some .illegalOp, value := none } := by
  simp [acceptRequest, h, execIllegal, report, writeValue]

/-- Everything a step can do: nothing pending, a request, a reset or a read. -/
theorem step_cases (s : State) :
    (s.inputs = [] ∧ step s = .next s) ∨
    (∃ w rest, s.inputs = .request w :: rest ∧ step s = acceptRequest w { s with inputs := rest }) ∨
    (∃ rest, s.inputs = .reset :: rest ∧ step s = .next (assertReset { s with inputs := rest })) ∨
    (∃ r rest, s.inputs = .read r :: rest ∧ step s = .next (hostRead r { s with inputs := rest })) := by
  cases h : s.inputs with
  | nil => exact .inl ⟨rfl, by simp [step, takeEvent_nil h]⟩
  | cons e rest =>
    cases e with
    | request w => exact .inr (.inl ⟨w, rest, rfl, by simp [step, takeEvent_cons h, applyEvent]⟩)
    | reset => exact .inr (.inr (.inl ⟨rest, rfl, by simp [step, takeEvent_cons h, applyEvent]⟩))
    | read r => exact .inr (.inr (.inr ⟨r, rest, rfl, by simp [step, takeEvent_cons h, applyEvent]⟩))

end Sys2Proof.Machine
end

