-- ==== Sys2Proof/Tests/Slice0.lean ====
section
/-! SUPPORT. Tests: words, vectors and single steps taken from spec/95_test_vectors.md and the rules, and for each
statement with hypotheses a witness that meets them. -/

/- The theorems of this file are checked one after another: together they need more threads than the check's memory
limit gives stacks. -/
set_option Elab.async false

namespace Sys2Proof.Tests
open Sys2Proof Sys2Proof.Machine

/-- The next state of an outcome, if it is one. -/
def nextOf : Host.Outcome State Fault Refusal → Option State
  | .next t => some t
  | .fault _ => none
  | .refused _ => none

/-- The response state after one step on one host event. -/
def after (e : HostEvent) (s : State) : Option Registers :=
  (nextOf (step { s with inputs := [e] })).map registers

/-- The answers after one step on one host event. -/
def answersAfter (e : HostEvent) (s : State) : Option (List Answer) :=
  (nextOf (step { s with inputs := [e] })).map (fun t => t.answers)

/-- A block after the CHKRH example of R99. -/
def okState : State :=
  ⟨some .ok, some .humidity, some 0x683A, some 0x7C, some (rh 0x683A), [], []⟩

/-- A block after a CHKRH with a wrong CRC byte. -/
def badState : State := ⟨some .checksumError, some .humidity, some 0x683A, some 0x7C, none, [], []⟩

/-- A block after an illegal request before the first reset (95 P4). -/
def earlyState : State := ⟨some .illegalOp, none, none, none, none, [], []⟩

/-! ### Well-formedness: a term each check refuses -/

theorem test_illformed_op : legalOp 0xE4 = false := by decide
theorem test_illformed_word : wordWellFormed 0xE4683A7C = false := by decide
theorem test_illformed_byte_literal : byteLiteralOk 256 = false ∧ byteLiteralOk 255 = true := by decide
theorem test_illformed_raw_literal : rawLiteralOk 65536 = false ∧ rawLiteralOk 65535 = true := by decide
theorem test_illformed_line : asmLineWellFormed (.chkrh 0x68 256 0x7C) = false := by decide
theorem test_wellformed_request : instrWellFormed (.chkrh 0xFF 0xFF 0xFF) = true := by decide

/-! ### The parameters of R9 -/

theorem test_widths : Raw = BitVec Config.rawWidth ∧ Byte = BitVec Config.crcWidth ∧
    Byte = BitVec Config.opWidth ∧ Word = BitVec Config.requestWidth ∧
    CrcReg = BitVec (Config.crcRegWidth + 1) ∧ Binary64 = BitVec Config.valueWidth := ⟨rfl, rfl, rfl, rfl, rfl, rfl⟩
theorem test_code_widths : (statusCode .illegalOp).toNat < 2 ^ Config.statusWidth ∧
    (kindCode .temperature).toNat < 2 ^ Config.kindWidth := by decide

/-! ### Decoding: words written out bit by bit from R55 and R60 -/

theorem test_decode_chkrh : decode 0b11100101_01101000_00111010_01111100 = .legal (.chkrh 0x68 0x3A 0x7C) := by
  decide
theorem test_decode_chkt : decode 0b11100011_01001110_10000101_01101011 = .legal (.chkt 0x4E 0x85 0x6B) := by
  decide
theorem test_decode_illegal : decode 0b11100111_00010010_00110100_01010110 = .illegal 0xE7 := by decide
theorem test_decode_table_row : decodeTableWord 32 0xE5000000 = some (.chkrh 0 0 0) ∧
    decodeTableWord 32 0xE3000000 = some (.chkt 0 0 0) ∧ decodeTableWord 32 0xE4000000 = none := by decide
theorem test_encode : encode (.chkrh 0x68 0x3A 0x7C) = 0xE5683A7C ∧ encode (.chkt 0x4E 0x85 0x6B) = 0xE34E856B := by
  decide

/-! ### The CRC: spec/95_test_vectors.md section 2, and the trace of R75 -/

theorem test_crc_vectors :
    [crc8 0x0000, crc8 0x0001, crc8 0x0080, crc8 0x0100, crc8 0x8000, crc8 0x00FF, crc8 0xFF00, crc8 0xFFFF, crc8 0x683A, crc8 0x4E85, crc8 0x6E8C, crc8 0x1234, crc8 0x00DC, crc8 0xDC00, crc8 0x7FFF, crc8 0x5555, crc8 0xAAAA, crc8 0x4442, crc8 0x0C4A, crc8 0x26BF, crc8 0x683B, crc8 0xE83A]
      = [0x00, 0x31, 0x7A, 0xF4, 0x23, 0xAC, 0x81, 0x2D, 0x7C, 0x6B, 0x3F, 0xB6, 0x79, 0x70, 0x0E, 0x1B, 0x36, 0x55, 0x52, 0x17, 0x4D, 0x5F] := by decide +kernel
/-- R75: W after each iteration for raw 0x683A. -/
theorem test_crc_trace :
    (List.range 16).map (fun k => (Nat.iterate crcStep (k + 1) 0x683A).toNat)
      = [0xD074, 0x91E8, 0x12D0, 0x25A0, 0x4B40, 0x9680, 0x1C00, 0x3800, 0x7000, 0xE000, 0xF100, 0xD300, 0x9700, 0x1F00, 0x3E00, 0x7C00] := by decide +kernel
/-- The byte table T, rows 0 to 7. -/
theorem test_crc_table_low :
    (List.range 128).map (fun b => (crcTable (BitVec.ofNat 8 b)).toNat)
      = [0x00, 0x31, 0x62, 0x53, 0xC4, 0xF5, 0xA6, 0x97, 0xB9, 0x88, 0xDB, 0xEA, 0x7D, 0x4C, 0x1F, 0x2E]
      ++ [0x43, 0x72, 0x21, 0x10, 0x87, 0xB6, 0xE5, 0xD4, 0xFA, 0xCB, 0x98, 0xA9, 0x3E, 0x0F, 0x5C, 0x6D]
      ++ [0x86, 0xB7, 0xE4, 0xD5, 0x42, 0x73, 0x20, 0x11, 0x3F, 0x0E, 0x5D, 0x6C, 0xFB, 0xCA, 0x99, 0xA8]
      ++ [0xC5, 0xF4, 0xA7, 0x96, 0x01, 0x30, 0x63, 0x52, 0x7C, 0x4D, 0x1E, 0x2F, 0xB8, 0x89, 0xDA, 0xEB]
      ++ [0x3D, 0x0C, 0x5F, 0x6E, 0xF9, 0xC8, 0x9B, 0xAA, 0x84, 0xB5, 0xE6, 0xD7, 0x40, 0x71, 0x22, 0x13]
      ++ [0x7E, 0x4F, 0x1C, 0x2D, 0xBA, 0x8B, 0xD8, 0xE9, 0xC7, 0xF6, 0xA5, 0x94, 0x03, 0x32, 0x61, 0x50]
      ++ [0xBB, 0x8A, 0xD9, 0xE8, 0x7F, 0x4E, 0x1D, 0x2C, 0x02, 0x33, 0x60, 0x51, 0xC6, 0xF7, 0xA4, 0x95]
      ++ [0xF8, 0xC9, 0x9A, 0xAB, 0x3C, 0x0D, 0x5E, 0x6F, 0x41, 0x70, 0x23, 0x12, 0x85, 0xB4, 0xE7, 0xD6] := by decide +kernel
/-- The byte table T, rows 8 to F. -/
theorem test_crc_table_high :
    (List.range 128).map (fun b => (crcTable (BitVec.ofNat 8 (128 + b))).toNat)
      = [0x7A, 0x4B, 0x18, 0x29, 0xBE, 0x8F, 0xDC, 0xED, 0xC3, 0xF2, 0xA1, 0x90, 0x07, 0x36, 0x65, 0x54]
      ++ [0x39, 0x08, 0x5B, 0x6A, 0xFD, 0xCC, 0x9F, 0xAE, 0x80, 0xB1, 0xE2, 0xD3, 0x44, 0x75, 0x26, 0x17]
      ++ [0xFC, 0xCD, 0x9E, 0xAF, 0x38, 0x09, 0x5A, 0x6B, 0x45, 0x74, 0x27, 0x16, 0x81, 0xB0, 0xE3, 0xD2]
      ++ [0xBF, 0x8E, 0xDD, 0xEC, 0x7B, 0x4A, 0x19, 0x28, 0x06, 0x37, 0x64, 0x55, 0xC2, 0xF3, 0xA0, 0x91]
      ++ [0x47, 0x76, 0x25, 0x14, 0x83, 0xB2, 0xE1, 0xD0, 0xFE, 0xCF, 0x9C, 0xAD, 0x3A, 0x0B, 0x58, 0x69]
      ++ [0x04, 0x35, 0x66, 0x57, 0xC0, 0xF1, 0xA2, 0x93, 0xBD, 0x8C, 0xDF, 0xEE, 0x79, 0x48, 0x1B, 0x2A]
      ++ [0xC1, 0xF0, 0xA3, 0x92, 0x05, 0x34, 0x67, 0x56, 0x78, 0x49, 0x1A, 0x2B, 0xBC, 0x8D, 0xDE, 0xEF]
      ++ [0x82, 0xB3, 0xE0, 0xD1, 0x46, 0x77, 0x24, 0x15, 0x3B, 0x0A, 0x59, 0x68, 0xFF, 0xCE, 0x9D, 0xAC] := by decide +kernel
theorem test_crc_not_reflected : crc8 0x0001 ≠ 0x5E ∧ crc8 0x683A ≠ 0xEC := by decide +kernel
theorem test_check_bit_flips :
    [0x7D, 0x7E, 0x78, 0x74, 0x6C, 0x5C, 0x3C, 0xFC].map (crcOk 0x683A) = List.replicate 8 false := by
  decide +kernel

/-! ### The conversions: spec/95_test_vectors.md section 4 -/

theorem test_rh_vectors_low :
    [0x0000, 0x0001, 0x0002, 0x0006, 0x09FA, 0x09FB, 0x0C49, 0x0C4A, 0x4441, 0x4442, 0x4E85].map rh
      = [0xC018000000000000, 0xC017FE0C00000000, 0xC017FC1800000000, 0xC017F44800000000,
        0xBFF20EE000000000, 0xBFF2071000000000, 0xBF56C00000000000, 0x3F41000000000000,
        0x403B53BD00000000, 0x403B543A00000000, 0x40402B7880000000] := by decide +kernel
theorem test_temp_vectors_low :
    [0x0000, 0x0001, 0x0002, 0x0006, 0x09FA, 0x09FB, 0x0C49, 0x0C4A, 0x4441, 0x4442, 0x4E85].map temp
      = [0xC0476CCCCCCCCCCD, 0xC0476C74F0A3D70A, 0xC0476C1D147AE148, 0xC0476ABDA3D70A3E,
        0xC04400425C28F5C3, 0xC043FFEA80000000, 0xC043356D1999999A, 0xC04335153D70A3D7,
        0xBF1828F5C2900000, 0x3F6535C28F5C0000, 0x401C2F687AE147B0] := by decide +kernel
theorem test_rh_vectors_high :
    [0x683A, 0x6E8C, 0x7FFF, 0x8000, 0xD916, 0xD917, 0xFA5C, 0xFA5D, 0xFFFC, 0xFFFF].map rh
      = [0x4046722900000000, 0x4047FD2E00000000, 0x404C3FC180000000, 0x404C400000000000,
        0x4058FFEF80000000, 0x4059000EC0000000, 0x405D0FBB00000000, 0x405D0FDA40000000,
        0x405DBF8300000000, 0x405DBFE0C0000000] := by decide +kernel
theorem test_temp_vectors_high :
    [0x683A, 0x6E8C, 0x7FFF, 0x8000, 0xD916, 0xD917, 0xFA5C, 0xFA5D, 0xFFFC, 0xFFFF].map temp
      = [0x4038B11770A3D70A, 0x403D07B266666666, 0x404480EFD1EB851F, 0x40448147AE147AE1,
        0x40598A2F6B851EB8, 0x40598A5B5999999A, 0x405F3FE328F5C290, 0x405F400F170A3D70,
        0x40601B7F2E147AE1, 0x40601BC113333333] := by decide +kernel

/-- The IEEE corners no conversion reaches: a tie to even (2^53 + 1), a subnormal sum, an overflow, a signed zero. -/
theorem test_ieee_corners :
    fadd 0x4340000000000000 0x3FF0000000000000 = 0x4340000000000000 ∧
    fadd 0x0000000000000001 0x000FFFFFFFFFFFFF = 0x0010000000000000 ∧
    fmul 0x7FE0000000000000 0xC000000000000000 = 0xFFF0000000000000 ∧
    fadd 0xBFF0000000000000 0x3FF0000000000000 = 0x0000000000000000 ∧
    fdiv 0xBFF0000000000000 0x0000000000000000 = 0xFFF0000000000000 := by decide +kernel

/-! ### Requests from the reset state: spec/95_test_vectors.md section 5 -/

theorem test_v1 :
    after (.request 0xE5683A7C) State.reset = some ⟨some .ok, some .humidity, some 0x683A, some 0x7C, some 0x4046722900000000⟩ := by decide +kernel
theorem test_v2 :
    after (.request 0xE3683A7C) State.reset = some ⟨some .ok, some .temperature, some 0x683A, some 0x7C, some 0x4038B11770A3D70A⟩ := by decide +kernel
theorem test_v3 :
    after (.request 0xE5683A7D) State.reset = some ⟨some .checksumError, some .humidity, some 0x683A, some 0x7C, none⟩ := by decide +kernel
theorem test_v4 :
    after (.request 0xE34E856B) State.reset = some ⟨some .ok, some .temperature, some 0x4E85, some 0x6B, some 0x401C2F687AE147B0⟩ := by decide +kernel
theorem test_v5 :
    after (.request 0xE5000000) State.reset = some ⟨some .ok, some .humidity, some 0x0000, some 0x00, some 0xC018000000000000⟩ := by decide +kernel
theorem test_v6 :
    after (.request 0xE3FFFF2D) State.reset = some ⟨some .ok, some .temperature, some 0xFFFF, some 0x2D, some 0x40601BC113333333⟩ := by decide +kernel
theorem test_v7 :
    after (.request 0xE5FFFF2D) State.reset = some ⟨some .ok, some .humidity, some 0xFFFF, some 0x2D, some 0x405DBFE0C0000000⟩ := by decide +kernel
theorem test_v8 :
    after (.request 0xE7683A7C) State.reset = some ⟨some .illegalOp, some .none, some 0x0000, some 0x00, none⟩ := by decide +kernel
theorem test_v9 :
    after (.request 0xE6008100) State.reset = some ⟨some .illegalOp, some .none, some 0x0000, some 0x00, none⟩ := by decide +kernel
theorem test_v10 :
    after (.request 0xFE000000) State.reset = some ⟨some .illegalOp, some .none, some 0x0000, some 0x00, none⟩ := by decide +kernel
theorem test_v11 :
    after (.request 0x00000000) State.reset = some ⟨some .illegalOp, some .none, some 0x0000, some 0x00, none⟩ := by decide +kernel
theorem test_v12 :
    after (.request 0xE3000001) State.reset = some ⟨some .checksumError, some .temperature, some 0x0000, some 0x00, none⟩ := by decide +kernel
theorem test_v13 :
    after (.request 0xE50C4901) State.reset = some ⟨some .ok, some .humidity, some 0x0C49, some 0x01, some 0xBF56C00000000000⟩ := by decide +kernel
theorem test_v14 :
    after (.request 0xE3FA5DC4) State.reset = some ⟨some .ok, some .temperature, some 0xFA5D, some 0xC4, some 0x405F400F170A3D70⟩ := by decide +kernel
theorem test_v15 :
    after (.request 0xE4683A7C) State.reset = some ⟨some .illegalOp, some .none, some 0x0000, some 0x00, none⟩ := by decide +kernel

/-- R101: after the CHKRH example an illegal request keeps KIND, RAW and CRC_CALC. -/
theorem test_illegal_keeps : after (.request 0xE7683A7C) okState
    = some ⟨some .illegalOp, some .humidity, some 0x683A, some 0x7C, none⟩ := by decide +kernel
/-- 95 P4 step 1: an illegal request before the first reset. -/
theorem test_illegal_before_reset : after (.request 0xFE000000) powerUp
    = some ⟨some .illegalOp, none, none, none, none⟩ := by decide +kernel
/-- 95 P1 step 1: reset from power-up. -/
theorem test_reset_from_power_up : after .reset powerUp
    = some ⟨some .idle, some .none, some 0x0000, some 0x00, none⟩ := by decide +kernel
/-- 95 P1 step 4: a read of VALUE after OK. -/
theorem test_read_value : answersAfter (.read .value) okState = some [.value 0x4046722900000000] := by
  decide +kernel
/-- 95 P2, false variant: a read of VALUE after a checksum error. -/
theorem test_read_value_unset : answersAfter (.read .value) badState = some [.fault .valueUnset] := by
  decide +kernel
/-- 95 P4 steps 2 and 3: STATUS has been written, RAW has not. -/
theorem test_read_before_reset : answersAfter (.read .status) earlyState = some [.status .illegalOp] ∧
    answersAfter (.read .raw) earlyState = some [.fault .unreset] := by decide +kernel
/-- A reset does not clear a recorded fault (R113). -/
theorem test_reset_keeps_faults :
    answersAfter .reset { badState with answers := [.fault .valueUnset] } = some [.fault .valueUnset] := by
  decide +kernel
/-- With nothing pending a step changes nothing. -/
theorem test_idle : nextOf (step State.reset) = some State.reset := by decide +kernel
/-- The host's placing of a request is taken by the very next step. -/
theorem test_with_fetch_word : (nextOf (step (State.reset.withFetchWord 32 0xE5683A7C))).map registers
    = some (registers okState) := by decide +kernel

/-! ### The assembler (R64 to R66) -/

theorem test_assemble_chkrh : assemble (.chkrh 0x68 0x3A 0x7C) = some (.request 0xE5683A7C) := by decide +kernel
theorem test_assemble_good : assemble (.chktGood 0xFFFF) = some (.request 0xE3FFFF2D) := by decide +kernel
theorem test_assemble_literal_error : assemble (.chkt 0x68 256 0x7C) = none := by decide +kernel
/-- The text `chkrh 0x68, 58,0x7C ; c`. -/
theorem test_parse_line : parseLine ['c', 'h', 'k', 'r', 'h', ' ', '0', 'x', '6', '8', ',', ' ', '5', '8', ',',
    '0', 'x', '7', 'C', ' ', ';', ' ', 'c'] = some (.chkrh 0x68 0x3A 0x7C) := by decide +kernel
/-- The text `chkt.good 0xFFFF`, `reset` and `read VALUE`, with an empty line between. -/
theorem test_assemble_text : assembleText [['c', 'h', 'k', 't', '.', 'g', 'o', 'o', 'd', ' ', '0', 'x', 'F', 'F',
      'F', 'F'], [' '], ['r', 'e', 's', 'e', 't'], ['r', 'e', 'a', 'd', ' ', 'V', 'A', 'L', 'U', 'E']]
    = some [.request 0xE3FFFF2D, .reset, .read .value] := by decide +kernel

/-! ### Witnesses: states and operands that meet each statement's hypotheses -/

theorem okState_inv : Inv okState where
  value_iff_ok := by simp [okState]
  of_ok := fun _ => ⟨.humidity, 0x683A, .inl rfl, rfl, rfl, congrArg some (by decide +kernel), rfl⟩
  of_checksumError := by simp [okState]
  of_idle := by simp [okState]
  crc_of_raw := by
    intro raw c hr hc
    simp only [okState, Option.some.injEq] at hr hc
    subst hr hc
    decide +kernel

theorem badState_inv : Inv badState where
  value_iff_ok := by simp [badState]
  of_ok := by simp [badState]
  of_checksumError := fun _ => ⟨.inl rfl, 0x683A, rfl, congrArg some (by decide +kernel)⟩
  of_idle := by simp [badState]
  crc_of_raw := by
    intro raw c hr hc
    simp only [badState, Option.some.injEq] at hr hc
    subst hr hc
    decide +kernel

/-- Pending events are no part of the invariant. -/
theorem Inv_withInputs {s : State} (h : Inv s) (es : List HostEvent) : Inv { s with inputs := es } :=
  ⟨h.value_iff_ok, h.of_ok, h.of_checksumError, h.of_idle, h.crc_of_raw⟩

theorem earlyState_together : CellsTogether earlyState := by simp [CellsTogether, earlyState]

theorem okState_booted : Booted okState := by simp [Booted, okState]

theorem witness_DecodeEncode : instrWellFormed (.chkt 0xFF 0x00 0x80) = true := by decide
theorem witness_EncodeDecode : decode 0xE3FF0080 = .legal (.chkt 0xFF 0x00 0x80) := by decide
theorem witness_OpcodeMap : (0xE5FFFFFF : Word).extractLsb' 24 8 = 0xE5 ∧ (0xE3000000 : Word).extractLsb' 24 8 = 0xE3 ∧
    (0xE4FFFFFF : Word).extractLsb' 24 8 ≠ 0xE5 ∧ (0xE4FFFFFF : Word).extractLsb' 24 8 ≠ 0xE3 := by decide
theorem witness_IllegalSpace : legalOp 0xE4 = false ∧ legalOp 0x00 = false ∧ legalOp 0xFF = false := by decide
theorem witness_PseudoInstructions : 65535 < 65536 ∧ 255 < 256 ∧ (assemble (.chkrh16 65535 255)).isSome = true := by
  decide +kernel
theorem witness_AssembledRequests : ((255 ≤ 255 ∧ 255 ≤ 255 ∧ 255 ≤ 255) ∧ (assemble (.chkrh 255 255 255)).isSome) ∧
    ((255 < 0 ∨ 255 < 0 ∨ 255 < 256) ∧ assemble (.chkrh 0 0 256) = none) := by decide +kernel
theorem witness_OutcomeCodes : 4 ≤ (4 : BitVec 3).toNat ∧ 4 ≤ (7 : BitVec 3).toNat := by decide
theorem witness_CrcWidthIndependent : (0x0FFFF : CrcReg).toNat < 2 ^ 16 ∧ 17 ≤ 17 := by decide
theorem witness_CrcProperties : 0 < 16 ∧ 15 < 16 := by decide
theorem witness_CrcRoundTrip : 0 < 8 ∧ 7 < 8 := by decide
theorem witness_PolynomialLiteral : 0 < 17 ∧ 16 < 17 := by decide
theorem witness_ErrorDetection : crcOk ((0x683A7C : BitVec 24).extractLsb' 8 16) ((0x683A7C : BitVec 24).extractLsb' 0 8)
    = true ∧ 0 < 24 ∧ 23 < 24 ∧ 0 ≠ 23 := by decide +kernel
theorem witness_NormalValue : f64IsNormal 0x0010000000000000 = true ∧ f64IsNormal 0xFFEFFFFFFFFFFFFF = true := by
  decide +kernel
theorem witness_RoundsToNearestEven : 0 < 3 ∧ roundMag 1 3 < f64InfMag ∧ roundMag (f64Unit * 7) 3 < f64InfMag ∧
    f64Exp 0x3FF0000000000000 ≠ 2047 := by decide +kernel
/-- A tie: 2^53 + 1 lies half way between two data, so a second datum is equally near. -/
theorem witness_RoundsToNearestEven_tie : roundMag ((2 ^ 53 + 1) * f64Unit) 1 < f64InfMag ∧
    |f64Value 0x4340000000000001 - exactValue false ((2 ^ 53 + 1) * f64Unit) 1|
      = |f64Value (roundF64 false ((2 ^ 53 + 1) * f64Unit) 1) - exactValue false ((2 ^ 53 + 1) * f64Unit) 1| ∧
    f64Value 0x4340000000000001 ≠ f64Value (roundF64 false ((2 ^ 53 + 1) * f64Unit) 1) := by decide +kernel
theorem witness_OperationsRoundOnce : f64Exp tOff ≠ 2047 ∧ f64Exp 0x0000000000000001 ≠ 2047 ∧
    f64Value 0x0000000000000001 ≠ 0 := by decide +kernel
theorem witness_ToF64Exact : 2 ^ 53 - 1 < 2 ^ 53 := by decide
theorem witness_QuotientExact : (1 : Raw) ≠ 0 ∧ (0xFFFF : Raw) ≠ 0 := by decide
theorem witness_RhProperties : (0xFFFE : Raw).toNat < 65535 ∧ (0 : Raw).toNat < (0xFFFF : Raw).toNat ∧
    (3145 : Raw).toNat ≤ 3145 ∧ 3146 ≤ (3146 : Raw).toNat ∧ 55575 ≤ (55575 : Raw).toNat ∧
    (55574 : Raw).toNat ≤ 55574 ∧ f64Value (rh 3145) < 0 ∧ 100 < f64Value (rh 55575) := by decide +kernel
theorem witness_TempProperties : (0x4441 : Raw).toNat ≤ 0x4441 ∧ 0x4442 ≤ (0x4442 : Raw).toNat ∧
    (2554 : Raw).toNat ≤ 2554 ∧ 64093 ≤ (64093 : Raw).toNat ∧ f64Value (temp 2554) < -40 ∧
    125 < f64Value (temp 64093) := by decide +kernel
theorem witness_ResultsAreNormal : (1 : Raw) ≠ 0 ∧ (0 : Raw) = 0 := by decide
theorem witness_TempRoundsTwice : (5 : Raw).toNat < 6 := by decide
theorem witness_ChkrhResult : crc8 (rawCode 0x68 0x3A) = 0x7C ∧ crc8 (rawCode 0x68 0x3A) ≠ 0x7D ∧
    (3145 : Raw).toNat ≤ 3145 ∧ 55575 ≤ (55575 : Raw).toNat := by decide +kernel
theorem witness_ChktResult : crc8 (rawCode 0x4E 0x85) = 0x6B ∧ crc8 (rawCode 0x4E 0x85) ≠ 0xEB ∧
    (2554 : Raw).toNat ≤ 2554 ∧ 64093 ≤ (64093 : Raw).toNat := by decide +kernel
theorem witness_IllegalResult : (0xE4683A7C : Word).extractLsb' 24 8 ≠ 0xE5 ∧
    (0xE4683A7C : Word).extractLsb' 24 8 ≠ 0xE3 := by decide
theorem witness_LegalIndependent : decode 0xE5FFFFFF = .legal (.chkrh 0xFF 0xFF 0xFF) := by decide
theorem witness_Idempotent : decode 0xE3000001 = .legal (.chkt 0x00 0x00 0x01) ∧ decode 0xE4000000 = .illegal 0xE4 := by
  decide
theorem witness_CheckPrecedence : legalOp 0xE4 = false ∧ legalOp 0xE5 = true ∧ legalOp 0xE3 = true ∧
    crc8 (rawCode 0xFF 0xFF) = 0x2D ∧ crc8 (rawCode 0xFF 0xFF) ≠ 0xFF := by decide +kernel
theorem witness_NothingElseRecorded : crcOk (rawCode 0x68 0x3A) 0x7D = crcOk (rawCode 0x68 0x3A) 0x00 ∧
    legalOp 0xE7 = false ∧ legalOp 0xFE = false := by decide +kernel
theorem witness_RequestFrame : (∃ t, exec (.chkrh 0x68 0x3A 0x7C) State.reset = .next t) ∧
    (∃ t, exec (.chkt 0x68 0x3A 0x7D) badState = .next t) ∧ ∃ t, execIllegal 0xE4 okState = .next t :=
  ⟨⟨_, rfl⟩, ⟨_, rfl⟩, ⟨_, rfl⟩⟩
theorem witness_ResetInput : { okState with inputs := [.reset, .request 0xE5000000] }.inputs
    = .reset :: .request 0xE5000000 :: [] := rfl
theorem witness_PowerUp : decode 0xFE000000 = .illegal 0xFE ∧ decode 0xE3683A7C = .legal (.chkt 0x68 0x3A 0x7C) := by
  decide
theorem witness_SoftResetIsIllegal : { okState with inputs := [.request 0xFE000000] }.inputs
    = .request (packRequest 0xFE 0x00 0x00 0x00) :: [] := by decide
theorem witness_HostReads : { okState with inputs := [.read .raw] }.inputs = .read .raw :: [] ∧
    (okState.status = some .ok ∧ okState.kind = some .humidity ∧ okState.raw = some 0x683A ∧
      okState.crcCalc = some 0x7C ∧ okState.value = some (rh 0x683A)) ∧
    ∃ t, step { okState with inputs := [.reset] } = .next t ∧ registers t ≠ registers okState :=
  ⟨rfl, ⟨rfl, rfl, rfl, rfl, rfl⟩, _, rfl, by simp [registers, assertReset, okState]⟩
theorem witness_ValueUnsetReads : (Inv badState ∧ badState.status = some .checksumError) ∧
    Inv okState ∧ okState.status = some .ok := ⟨⟨badState_inv, rfl⟩, okState_inv, rfl⟩
theorem witness_UnresetReads : CellsTogether earlyState ∧ earlyState.raw = none := ⟨earlyState_together, rfl⟩
theorem witness_FaultsStayRecorded : ∃ t, step { badState with inputs := [.read .value] } = .next t ∧
    recordedFaults t = [.valueUnset] := ⟨_, rfl, rfl⟩
theorem witness_FaultsStayRecorded_other : ∃ t, step { badState with inputs := [.reset] } = .next t ∧
    ∀ r rest, { badState with inputs := [.reset] }.inputs ≠ .read r :: rest := ⟨_, rfl, by simp⟩
theorem witness_InvariantKept : ∃ t, Inv { okState with inputs := [.request 0xE7683A7C] } ∧
    step { okState with inputs := [.request 0xE7683A7C] } = .next t := ⟨_, Inv_withInputs okState_inv _, rfl⟩
theorem witness_WrittenTogether : ∃ t, CellsTogether { earlyState with inputs := [.request 0xE3683A7C] } ∧
    step { earlyState with inputs := [.request 0xE3683A7C] } = .next t := ⟨_, earlyState_together, rfl⟩
theorem witness_BootedStays : ∃ t, Booted { okState with inputs := [.request 0xFE000000] } ∧
    step { okState with inputs := [.request 0xFE000000] } = .next t := ⟨_, okState_booted, rfl⟩
theorem witness_StepRunsDecoded : { okState with inputs := [.request 0xE3683A7C, .reset] }.inputs
      = .request 0xE3683A7C :: [.reset] ∧ decode 0xE3683A7C = .legal (.chkt 0x68 0x3A 0x7C) ∧
    instrWellFormed (.chkt 0x68 0x3A 0x7C) = true := by decide
theorem witness_IdleStep : okState.inputs = [] := rfl
theorem witness_EventsInOrder : { okState with inputs := [.reset, .read .raw] }.inputs = [.reset] ++ [.read .raw] := rfl
theorem witness_ResetForgets : { okState with inputs := [.reset, .read .raw] }.inputs = .reset :: [.read .raw] ∧
    { earlyState with inputs := [.reset, .read .raw] }.inputs = .reset :: [.read .raw] ∧
    okState.answers = earlyState.answers := ⟨rfl, rfl, rfl⟩
theorem witness_InstancesIndependent : ([okState, badState] : System)[1]? = some badState := rfl

end Sys2Proof.Tests
end

section
/-! PROOFS. Rounding (spec/00_scope.md R15, spec/41_conversion.md R82): a rounded magnitude is the nearest datum, ties to
even, and each operation rounds its exact result once.

Errors are compared as whole numbers (`unitError`). Beside a magnitude of shift `k` every datum is either a multiple of
`2^k` units, and the rounded one is the nearest of those, or below `2^(52+k)` units, and then `2^(52+k)`, such a
multiple itself, is nearer. -/

namespace Sys2Proof.Machine

/-! ### Signs and values -/

/-- The factor that a sign bit stands for. -/
def signFactor (neg : Bool) : ℤ := if neg then -1 else 1

theorem signFactor_mul_self (neg : Bool) : signFactor neg * signFactor neg = 1 := by cases neg <;> rfl

theorem signFactor_xor (m n : Bool) : signFactor (m ^^ n) = signFactor m * signFactor n := by
  cases m <;> cases n <;> rfl

theorem abs_signFactor (neg : Bool) : |(signFactor neg : ℚ)| = 1 := by cases neg <;> simp [signFactor]

theorem signFactor_neg_mul_natAbs (u : ℤ) : signFactor (decide (u < 0)) * u.natAbs = u := by
  by_cases hu : u < 0
  · simp only [signFactor, hu, decide_true, if_true]
    omega
  · simp only [signFactor, hu, decide_false, Bool.false_eq_true, if_false]
    omega

theorem f64Int_eq_signFactor_mul (v : Binary64) : f64Int v = signFactor (f64Neg v) * f64Mag v := by
  cases h : f64Neg v <;> simp [f64Int, signFactor, h]

theorem exactValue_eq_signFactor_mul (neg : Bool) (num den : Nat) :
    exactValue neg num den = signFactor neg * (num / den) / f64Unit := by
  cases neg
  · simp only [exactValue, signFactor, Bool.false_eq_true, if_false, Int.cast_one, one_mul]
  · simp only [exactValue, signFactor, if_true, Int.cast_neg, Int.cast_one, neg_one_mul]

theorem f64Unit_pos : 0 < f64Unit := by
  rw [f64Unit]
  exact pow_pos two_pos _

theorem f64Unit_cast_pos : (0 : ℚ) < f64Unit := Nat.cast_pos.mpr f64Unit_pos

/-! ### Rounding a quotient to a whole number -/

/-- The distance of `u` from `num / den`, in parts of `1 / den`. -/
def unitError (num den : Nat) (u : ℤ) : Nat := (u * den - num).natAbs

/-- `w`, of significand `q`, is as near to `num / den` as `z`, and `q` is even when `z` is another one equally near. -/
def NearestEven (num den : Nat) (w : ℤ) (q : Nat) (z : ℤ) : Prop :=
  unitError num den w ≤ unitError num den z ∧
  (unitError num den z = unitError num den w → z ≠ w → q % 2 = 0)

/-- The quotient is kept or raised by one, by the side on which the remainder lies; half way between, the result is
even. -/
theorem roundDiv_cases (num den : Nat) :
    (roundDiv num den = num / den ∧ 2 * (num % den) ≤ den ∨
      roundDiv num den = num / den + 1 ∧ den ≤ 2 * (num % den)) ∧
    (2 * (num % den) = den → roundDiv num den % 2 = 0) := by
  simp only [roundDiv, Bool.or_eq_true, decide_eq_true_eq, Bool.and_eq_true, beq_iff_eq]
  split <;> omega

/-- The error of `z` is its distance from the whole quotient, less the remainder. -/
theorem unitError_eq_sub_div (num den : Nat) (z : ℤ) :
    unitError num den z = ((z - (num / den : ℕ)) * den - (num % den : ℕ)).natAbs := by
  have hnum : (num : ℤ) = (num / den : ℕ) * den + (num % den : ℕ) := by
    exact_mod_cast (Nat.div_add_mod' num den).symm
  rw [unitError]
  congr 1
  linarith

/-- A multiple is zero, the number itself, or at least that far from both. -/
theorem mul_natCast_cases (d : ℤ) (den : Nat) :
    d = 0 ∧ d * den = 0 ∨ d = 1 ∧ d * den = den ∨ d * den ≤ -den ∨ 2 * den ≤ d * den := by
  rcases (by omega : d = 0 ∨ d = 1 ∨ d ≤ -1 ∨ 2 ≤ d) with rfl | rfl | h | h
  · simp
  · simp
  · exact .inr (.inr (.inl (by nlinarith)))
  · exact .inr (.inr (.inr (by nlinarith)))

/-- `roundDiv num den` is as near to `num / den` as any whole number, and even when another is equally near. -/
theorem roundDiv_nearest {den : Nat} (hden : 0 < den) (num : Nat) (z : ℤ) :
    NearestEven num den (roundDiv num den) (roundDiv num den) z := by
  obtain ⟨hside, htie⟩ := roundDiv_cases num den
  have hlt := Nat.mod_lt num hden
  have hz := mul_natCast_cases (z - (num / den : ℕ)) den
  have hw : ((roundDiv num den : ℤ) - (num / den : ℕ)) * den
      = if roundDiv num den = num / den then 0 else (den : ℤ) := by
    rcases hside with ⟨h, -⟩ | ⟨h, -⟩ <;> simp [h]
  rw [NearestEven, unitError_eq_sub_div, unitError_eq_sub_div, hw]
  generalize (z - (num / den : ℕ)) * (den : ℤ) = p at *
  split <;> omega

/-! ### The rounded significand -/

/-- The significand that `roundMag` keeps: `num / den` in steps of `2^k` units, rounded, with `k` its shift. -/
def roundSig (num den : Nat) : Nat := roundDiv num (den * 2 ^ roundShift num den)

/-- The units of the rounded magnitude. -/
def roundedUnits (num den : Nat) : Nat := roundSig num den * 2 ^ roundShift num den

theorem roundMag_of_lt {num den : Nat} (h : roundMag num den < f64InfMag) :
    roundMag num den = roundShift num den * 2 ^ 52 + roundSig num den := by
  simp only [roundMag, roundSig] at h ⊢
  omega

/-- A magnitude that is shifted fills the 53 bits kept. -/
theorem two_pow_le_div_of_roundShift_ne_zero {num den : Nat} (h : roundShift num den ≠ 0) :
    2 ^ (52 + roundShift num den) ≤ num / den := by
  have hlog : 52 + roundShift num den = (num / den).log2 := by simp only [roundShift] at h ⊢; omega
  have hne : num / den ≠ 0 := by
    intro h0
    simp [h0] at hlog
  rw [hlog]
  exact Nat.log2_self_le hne

theorem div_lt_two_pow_roundShift (num den : Nat) : num / den < 2 ^ (53 + roundShift num den) :=
  Nat.lt_of_lt_of_le Nat.lt_log2_self (Nat.pow_le_pow_right (by decide) (by simp only [roundShift]; omega))

/-- The significand is at most 2^53, and at least 2^52 unless nothing is shifted out. -/
theorem roundSig_bounds (num den : Nat) :
    roundSig num den ≤ 2 ^ 53 ∧ (roundShift num den ≠ 0 → 2 ^ 52 ≤ roundSig num den) := by
  have hside := (roundDiv_cases num (den * 2 ^ roundShift num den)).1
  have hhi : num / (den * 2 ^ roundShift num den) < 2 ^ 53 := by
    rw [← Nat.div_div_eq_div_mul, Nat.div_lt_iff_lt_mul (Nat.two_pow_pos _), ← Nat.pow_add]
    exact div_lt_two_pow_roundShift num den
  constructor
  · rw [roundSig]; omega
  · intro hk
    have hlo : 2 ^ 52 ≤ num / (den * 2 ^ roundShift num den) := by
      rw [← Nat.div_div_eq_div_mul, Nat.le_div_iff_mul_le (Nat.two_pow_pos _), ← Nat.pow_add]
      exact two_pow_le_div_of_roundShift_ne_zero hk
    rw [roundSig]; omega

/-- The encoding `k * 2^52 + q` is `q * 2^k` units also where the significand has no leading bit (`k = 0`) or has just
carried (`q = 2^53`). -/
theorem f64Mag_packF64 (neg : Bool) {k q : Nat} (hq : q ≤ 2 ^ 53) (hk : k ≠ 0 → 2 ^ 52 ≤ q)
    (h : k * 2 ^ 52 + q < 2 ^ 63) : f64Mag (packF64 neg (k * 2 ^ 52 + q)) = q * 2 ^ k := by
  rcases Nat.lt_or_ge q (2 ^ 52) with hlow | hlow
  · obtain rfl : k = 0 := by omega
    simpa using f64Mag_packF64_subnormal neg hlow
  · rcases Nat.lt_or_eq_of_le hq with hlt | rfl
    · exact f64Mag_packF64_normal neg hlow hlt h
    · have hcarry : k * 2 ^ 52 + 2 ^ 53 = (k + 1) * 2 ^ 52 + 2 ^ 52 := by omega
      rw [hcarry, f64Mag_packF64_normal neg (le_refl _) (by decide) (hcarry ▸ h)]
      ring

theorem f64Mag_roundF64 (neg : Bool) {num den : Nat} (h : roundMag num den < f64InfMag) :
    f64Mag (roundF64 neg num den) = roundedUnits num den := by
  have hlt := roundMag_lt num den
  obtain ⟨hle, hge⟩ := roundSig_bounds num den
  rw [roundMag_of_lt h] at hlt
  rw [roundF64, roundMag_of_lt h, f64Mag_packF64 neg hle hge hlt, roundedUnits]

theorem f64Exp_roundF64_ne (neg : Bool) {num den : Nat} (h : roundMag num den < f64InfMag) :
    f64Exp (roundF64 neg num den) ≠ 2047 := by
  rw [roundF64, f64Exp_packF64 neg (roundMag_lt num den)]
  rw [f64InfMag] at h
  omega

/-- A rounded datum is even when its significand is. -/
theorem f64Frac_roundF64_mod_two (neg : Bool) {num den : Nat} (h : roundMag num den < f64InfMag) :
    f64Frac (roundF64 neg num den) % 2 = roundSig num den % 2 := by
  rw [roundF64, f64Frac_packF64 neg (roundMag_lt num den), roundMag_of_lt h]
  omega

/-! ### The nearest datum -/

/-- A finite datum is a multiple of `2^k` units or has a magnitude below `2^(52+k)` units. -/
theorem f64Mag_dvd_or_lt (v : Binary64) (k : Nat) : 2 ^ k ∣ f64Mag v ∨ f64Mag v < 2 ^ (52 + k) := by
  have hfrac : f64Frac v < 2 ^ 52 := BitVec.isLt _
  rw [f64Mag]
  split
  · exact .inr (Nat.lt_of_lt_of_le hfrac (Nat.pow_le_pow_right (by decide) (by omega)))
  · rcases Nat.lt_or_ge (f64Exp v - 1) k with hk | hk
    · right
      calc (2 ^ 52 + f64Frac v) * 2 ^ (f64Exp v - 1)
          < 2 ^ 53 * 2 ^ (f64Exp v - 1) := Nat.mul_lt_mul_of_pos_right (by omega) (Nat.two_pow_pos _)
        _ = 2 ^ (53 + (f64Exp v - 1)) := (Nat.pow_add ..).symm
        _ ≤ 2 ^ (52 + k) := Nat.pow_le_pow_right (by decide) (by omega)
    · exact .inl (Dvd.dvd.mul_left (Nat.pow_dvd_pow 2 hk) _)

/-- The same of a datum with its sign, or with the opposite one. -/
theorem signFactor_mul_f64Int_dvd_or_lt (neg : Bool) (v : Binary64) (k : Nat) :
    (2 : ℤ) ^ k ∣ signFactor neg * f64Int v ∨ signFactor neg * f64Int v < 2 ^ (52 + k) := by
  rw [f64Int_eq_signFactor_mul, ← mul_assoc, ← signFactor_xor]
  rcases f64Mag_dvd_or_lt v k with h | h
  · exact .inl (Dvd.dvd.mul_left (by exact_mod_cast h) _)
  · right
    have hlt : (f64Mag v : ℤ) < 2 ^ (52 + k) := by exact_mod_cast h
    have hpos : (0 : ℤ) < 2 ^ (52 + k) := by positivity
    cases neg ^^ f64Neg v
    · rwa [signFactor, if_neg Bool.false_ne_true, one_mul]
    · rw [signFactor, if_pos rfl]
      omega

/-- Beside a magnitude of shift `k`, every such number of units has a multiple of `2^k` as near, which is equally near
only when it is that number: the number itself, or `2^(52+k)`, which lies between. -/
theorem exists_multiple_as_near {num den : Nat} (hden : 0 < den) {u : ℤ}
    (hu : (2 : ℤ) ^ roundShift num den ∣ u ∨ u < 2 ^ (52 + roundShift num den)) :
    ∃ m : ℤ, (2 : ℤ) ^ roundShift num den ∣ m ∧ unitError num den m ≤ unitError num den u ∧
      (unitError num den u = unitError num den m → u = m) := by
  by_cases hdvd : (2 : ℤ) ^ roundShift num den ∣ u
  · exact ⟨u, hdvd, le_refl _, fun _ => rfl⟩
  · have hk : roundShift num den ≠ 0 := fun h0 => hdvd (by simp [h0])
    have hlt : u * den < 2 ^ (52 + roundShift num den) * den :=
      mul_lt_mul_of_pos_right (hu.resolve_left hdvd) (by exact_mod_cast hden)
    have hle : (2 : ℤ) ^ (52 + roundShift num den) * den ≤ num := by
      exact_mod_cast (Nat.le_div_iff_mul_le hden).mp (two_pow_le_div_of_roundShift_ne_zero hk)
    have hfarther : unitError num den (2 ^ (52 + roundShift num den)) < unitError num den u := by
      rw [unitError, unitError]
      omega
    exact ⟨_, pow_dvd_pow 2 (by omega), hfarther.le, fun heq => absurd heq hfarther.ne'⟩

theorem unitError_mul_two_pow (num den k : Nat) (z : ℤ) :
    unitError num (den * 2 ^ k) z = unitError num den (2 ^ k * z) := by
  rw [unitError, unitError]
  push_cast
  ring_nf

/-- Among the multiples of `2^k` the rounded magnitude is the nearest, because `roundDiv` rounds in steps of `2^k`. -/
theorem roundedUnits_nearest_multiple {num den : Nat} (hden : 0 < den) {m : ℤ}
    (hm : (2 : ℤ) ^ roundShift num den ∣ m) :
    NearestEven num den (roundedUnits num den) (roundSig num den) m := by
  obtain ⟨z, rfl⟩ := hm
  have hunits : (roundedUnits num den : ℤ) = 2 ^ roundShift num den * roundSig num den := by
    rw [roundedUnits, mul_comm]
    push_cast
    rfl
  obtain ⟨hnear, heven⟩ := roundDiv_nearest (Nat.mul_pos hden (Nat.two_pow_pos (roundShift num den))) num z
  rw [← roundSig, unitError_mul_two_pow, unitError_mul_two_pow, ← hunits] at hnear heven
  exact ⟨hnear, fun heq hne => heven heq fun hz => hne (by rw [hz, hunits])⟩

theorem roundedUnits_nearest {num den : Nat} (hden : 0 < den) {u : ℤ}
    (hu : (2 : ℤ) ^ roundShift num den ∣ u ∨ u < 2 ^ (52 + roundShift num den)) :
    NearestEven num den (roundedUnits num den) (roundSig num den) u := by
  obtain ⟨m, hm, hmu, hunique⟩ := exists_multiple_as_near hden hu
  obtain ⟨hnear, heven⟩ := roundedUnits_nearest_multiple hden hm
  refine ⟨hnear.trans hmu, fun heq hne => ?_⟩
  obtain rfl := hunique (le_antisymm (heq.trans_le hnear) hmu)
  exact heven heq hne

/-- The error of a datum, as a real number, is its whole-number error divided by `den` and by the unit. -/
theorem abs_f64Value_sub_exactValue (v : Binary64) (neg : Bool) (num : Nat) {den : Nat} (hden : 0 < den) :
    |f64Value v - exactValue neg num den|
      = (unitError num den (signFactor neg * f64Int v) : ℚ) / (den * f64Unit) := by
  have hu := f64Unit_cast_pos
  have hd : (0 : ℚ) < den := Nat.cast_pos.mpr hden
  have hsq : (signFactor neg : ℚ) * signFactor neg = 1 := by exact_mod_cast signFactor_mul_self neg
  have hfactor : f64Value v - exactValue neg num den
      = signFactor neg * (signFactor neg * f64Int v * den - num) / (den * f64Unit) := by
    rw [f64Value, exactValue_eq_signFactor_mul]
    field_simp
    linear_combination (-(f64Int v : ℚ) * den) * hsq
  rw [hfactor, abs_div, abs_mul, abs_signFactor, one_mul, abs_of_pos (mul_pos hd hu), unitError, Nat.cast_natAbs]
  push_cast
  rfl

theorem signFactor_mul_f64Int_roundF64 (neg : Bool) {num den : Nat} (h : roundMag num den < f64InfMag) :
    signFactor neg * f64Int (roundF64 neg num den) = roundedUnits num den := by
  rw [f64Int_eq_signFactor_mul, f64Neg_roundF64, f64Mag_roundF64 neg h, ← mul_assoc, signFactor_mul_self, one_mul]

/-- Data of different values have different numbers of units, whichever sign both are read with. -/
theorem signFactor_mul_f64Int_ne {v w : Binary64} (neg : Bool) (h : f64Value v ≠ f64Value w) :
    signFactor neg * f64Int v ≠ signFactor neg * f64Int w := by
  intro heq
  refine h ?_
  rw [f64Value, f64Value, mul_left_cancel₀ (left_ne_zero_of_mul_eq_one (signFactor_mul_self neg)) heq]

/-- Settles O18: every finite datum is a multiple of the rounded magnitude's step or lies below all those of its
shift, and among the multiples `roundDiv` picks the nearest, and of two the even one. -/
theorem roundsToNearestEven : Obligations.RoundsToNearestEven := by
  intro neg num den hden hfin
  refine ⟨f64Exp_roundF64_ne neg hfin, fun v _ => ?_⟩
  have hscale : (0 : ℚ) < den * f64Unit := mul_pos (Nat.cast_pos.mpr hden) f64Unit_cast_pos
  obtain ⟨hnear, heven⟩ :=
    roundedUnits_nearest hden (signFactor_mul_f64Int_dvd_or_lt neg v (roundShift num den))
  rw [← signFactor_mul_f64Int_roundF64 neg hfin] at hnear heven
  rw [abs_f64Value_sub_exactValue v neg num hden, abs_f64Value_sub_exactValue _ neg num hden,
    div_le_div_iff_of_pos_right hscale, div_left_inj' hscale.ne', Nat.cast_le, Nat.cast_inj,
    f64Frac_roundF64_mod_two neg hfin]
  exact ⟨hnear, fun heq hne => heven heq (signFactor_mul_f64Int_ne neg hne)⟩

/-! ### Operations -/

theorem roundMag_zero (den : Nat) : roundMag 0 den = 0 := by
  simp [roundMag, roundShift, roundDiv]

/-- A datum that is not zero in value is no zero, and has a magnitude. -/
theorem f64Mag_pos_of_f64Value_ne_zero {v : Binary64} (h : f64Value v ≠ 0) : 0 < f64Mag v := by
  refine Nat.pos_of_ne_zero fun h0 => h ?_
  rw [f64Value, f64Int_eq_signFactor_mul, h0, Nat.cast_zero, mul_zero, Int.cast_zero, zero_div]

theorem f64IsZero_eq_false_of_f64Value_ne_zero {v : Binary64} (h : f64Value v ≠ 0) : f64IsZero v = false := by
  have hmag := f64Mag_pos_of_f64Value_ne_zero h
  rw [f64Mag] at hmag
  simp only [f64IsZero, Bool.and_eq_false_imp, beq_iff_eq, beq_eq_false_iff_ne]
  intro hexp
  simp only [hexp, if_true] at hmag
  omega

/-- A whole number of units is its sign and its absolute value. -/
theorem exactValue_natAbs (u : ℤ) : exactValue (decide (u < 0)) u.natAbs 1 = u / f64Unit := by
  have hu : (signFactor (decide (u < 0)) : ℚ) * (u.natAbs : ℤ) = u := by
    exact_mod_cast signFactor_neg_mul_natAbs u
  rw [exactValue_eq_signFactor_mul, Nat.cast_one, div_one, ← hu, Int.cast_natCast]

/-- A finite sum is a rounding of the exact sum; of a zero sum, with the sign that IEEE 754 gives it. -/
theorem fadd_eq_roundF64 {a b : Binary64} (ha : f64Exp a ≠ 2047) (hb : f64Exp b ≠ 2047) :
    ∃ neg, exactValue neg (f64Int a + f64Int b).natAbs 1 = f64Value a + f64Value b ∧
      fadd a b = roundF64 neg (f64Int a + f64Int b).natAbs 1 := by
  rw [fadd_finite ha hb, f64Value, f64Value, ← add_div, ← Int.cast_add]
  split
  · next hsum =>
    refine ⟨f64Neg a && f64Neg b, ?_, ?_⟩
    · rw [hsum, exactValue_eq_signFactor_mul, Int.natAbs_zero, Nat.cast_zero, zero_div, mul_zero, Int.cast_zero]
    · rw [hsum, roundF64, Int.natAbs_zero, roundMag_zero]
  · exact ⟨decide (f64Int a + f64Int b < 0), exactValue_natAbs _, rfl⟩

theorem exactValue_mul (a b : Binary64) :
    exactValue (f64Neg a ^^ f64Neg b) (f64Mag a * f64Mag b) f64Unit = f64Value a * f64Value b := by
  rw [exactValue_eq_signFactor_mul, signFactor_xor, f64Value, f64Value, f64Int_eq_signFactor_mul,
    f64Int_eq_signFactor_mul]
  push_cast
  ring

theorem exactValue_div (a : Binary64) {b : Binary64} (hb : 0 < f64Mag b) :
    exactValue (f64Neg a ^^ f64Neg b) (f64Mag a * f64Unit) (f64Mag b) = f64Value a / f64Value b := by
  have hu := f64Unit_cast_pos
  have hmag : (0 : ℚ) < f64Mag b := Nat.cast_pos.mpr hb
  have hsq : (signFactor (f64Neg b) : ℚ) * signFactor (f64Neg b) = 1 := by
    exact_mod_cast signFactor_mul_self (f64Neg b)
  have hne : (signFactor (f64Neg b) : ℚ) ≠ 0 := left_ne_zero_of_mul_eq_one hsq
  rw [exactValue_eq_signFactor_mul, signFactor_xor, f64Value, f64Value, f64Int_eq_signFactor_mul,
    f64Int_eq_signFactor_mul]
  push_cast
  field_simp
  linear_combination (signFactor (f64Neg a) * f64Mag a : ℚ) * hsq

/-- Settles O19: the operations' cases on finite operands are roundings of the exact sum, product and quotient. -/
theorem operationsRoundOnce : Obligations.OperationsRoundOnce := by
  intro a b ha hb
  refine ⟨?_, ?_, fun hne => ?_⟩
  · obtain ⟨neg, hexact, hround⟩ := fadd_eq_roundF64 ha hb
    exact ⟨neg, _, 1, Nat.one_pos, hexact, hround⟩
  · exact ⟨_, _, _, f64Unit_pos, exactValue_mul a b, fmul_finite ha hb⟩
  · have hmag := f64Mag_pos_of_f64Value_ne_zero hne
    exact ⟨_, _, _, hmag, exactValue_div a hmag,
      fdiv_finite ha hb (f64IsZero_eq_false_of_f64Value_ne_zero hne)⟩

end Sys2Proof.Machine
end

section
/-! PROOFS. Steps (spec/10_state.md R29, R35, spec/42_requests.md R98, R101): what a request and a step do, as facts
that every later proof can cite: a legal request's result, a step whose event is known, that no step stops, and when a
property of the response state is kept by every step. -/

namespace Sys2Proof.Machine

/-! ### Requests -/

theorem exec_chkrh (msb lsb crc : Byte) (s : State) :
    exec (.chkrh msb lsb crc) s = .next (checkConvert .humidity rh (rawCode msb lsb) crc s) := rfl

theorem exec_chkt (msb lsb crc : Byte) (s : State) :
    exec (.chkt msb lsb crc) s = .next (checkConvert .temperature temp (rawCode msb lsb) crc s) := rfl

/-- `t` is `s` after a check of `raw` for a conversion to `kind`: the registers of R98, one of the two outcomes, and
nothing else changed. -/
structure CheckedTo (kind : Kind) (raw : Raw) (s t : State) : Prop where
  kind_eq : t.kind = some kind
  raw_eq : t.raw = some raw
  crcCalc_eq : t.crcCalc = some (crc8 raw)
  outcome : (t.status = some .ok ∧ t.value = converted kind raw) ∨
    (t.status = some .checksumError ∧ t.value = none)
  inputs_eq : t.inputs = s.inputs
  answers_eq : t.answers = s.answers

theorem checkedTo_checkConvert {kind : Kind} {convert : Raw → Binary64} {raw : Raw}
    (hconv : converted kind raw = some (convert raw)) (crc : Byte) (s : State) :
    CheckedTo kind raw s (checkConvert kind convert raw crc s) := by
  rcases checkConvert_cases kind convert raw crc s with ⟨-, heq⟩ | ⟨-, heq⟩
  · rw [heq]
    exact ⟨rfl, rfl, rfl, .inl ⟨rfl, hconv.symm⟩, rfl, rfl⟩
  · rw [heq]
    exact ⟨rfl, rfl, rfl, .inr ⟨rfl, rfl⟩, rfl, rfl⟩

/-- A legal request always completes, with the result of a check for humidity or for temperature. -/
theorem exec_checkedTo (i : Instr) (s : State) :
    ∃ t kind raw, exec i s = .next t ∧ (kind = .humidity ∨ kind = .temperature) ∧ CheckedTo kind raw s t := by
  rcases exec_cases i s with ⟨msb, lsb, crc, -, heq⟩ | ⟨msb, lsb, crc, -, heq⟩
  · exact ⟨_, _, _, heq, .inl rfl, checkedTo_checkConvert rfl crc s⟩
  · exact ⟨_, _, _, heq, .inr rfl, checkedTo_checkConvert rfl crc s⟩

theorem checkedTo_of_exec {i : Instr} {s t : State} (h : exec i s = .next t) :
    ∃ kind raw, (kind = .humidity ∨ kind = .temperature) ∧ CheckedTo kind raw s t := by
  obtain ⟨u, kind, raw, hu, hkind, hchecked⟩ := exec_checkedTo i s
  obtain rfl : u = t := Host.Outcome.next.inj (hu.symm.trans h)
  exact ⟨kind, raw, hkind, hchecked⟩

theorem CheckedTo.booted {kind : Kind} {raw : Raw} {s t : State} (h : CheckedTo kind raw s t) : Booted t := by
  refine ⟨?_, by simp [h.kind_eq], by simp [h.raw_eq], by simp [h.crcCalc_eq]⟩
  rcases h.outcome with ⟨hstatus, -⟩ | ⟨hstatus, -⟩ <;> simp [hstatus]

/-- A request is legal and runs, or writes ILLEGAL_OP and an empty VALUE. -/
theorem acceptRequest_cases (w : Word) (s : State) :
    (∃ i, acceptRequest w s = exec i s) ∨
    acceptRequest w s = .next { s with status := some .illegalOp, value := none } := by
  cases h : decode w with
  | legal i => exact .inl ⟨i, acceptRequest_legal h s⟩
  | illegal op => exact .inr (acceptRequest_illegal h s)

theorem legalOp_eq_false_iff (op : Byte) : legalOp op = false ↔ op ≠ opChkrh ∧ op ≠ opChkt := by
  simp [legalOp, opChkrh, opChkt]

theorem decode_packRequest_of_illegalOp {op : Byte} (h : legalOp op = false) (msb lsb crc : Byte) :
    decode (packRequest op msb lsb crc) = .illegal op := by
  obtain ⟨hrh, ht⟩ := (legalOp_eq_false_iff op).mp h
  simp [decode, hrh, ht]

/-! ### Steps -/

theorem step_of_inputs_nil {s : State} (h : s.inputs = []) : step s = .next s := by
  simp [step, takeEvent_nil h]

theorem step_of_inputs_cons {s : State} {e : HostEvent} {rest : List HostEvent} (h : s.inputs = e :: rest) :
    step s = applyEvent e { s with inputs := rest } := by
  simp [step, takeEvent_cons h]

theorem acceptRequest_next (w : Word) (s : State) : ∃ t, acceptRequest w s = .next t := by
  rcases acceptRequest_cases w s with ⟨i, heq⟩ | heq
  · obtain ⟨t, -, -, ht, -⟩ := exec_checkedTo i s
    exact ⟨t, heq.trans ht⟩
  · exact ⟨_, heq⟩

theorem step_next (s : State) : ∃ t, step s = .next t := by
  rcases step_cases s with ⟨-, heq⟩ | ⟨w, rest, -, heq⟩ | ⟨rest, -, heq⟩ | ⟨r, rest, -, heq⟩
  · exact ⟨_, heq⟩
  · rw [heq]
    exact acceptRequest_next w _
  · exact ⟨_, heq⟩
  · exact ⟨_, heq⟩

/-- The first of several steps, when it is known. -/
theorem run_succ_of_next {M : Host.Core} {s t : M.State} (h : M.step s = .next t) (k : Nat) :
    M.run (k + 1) s = M.run k t := by
  simp [Host.Core.run, h]

theorem run_succ_of_step {s t : State} (h : step s = .next t) (k : Nat) : core.run (k + 1) s = core.run k t :=
  run_succ_of_next (M := core) h k

theorem run_next (k : Nat) (s : State) : ∃ t, core.run k s = .next t := by
  induction k generalizing s with
  | zero => exact ⟨s, rfl⟩
  | succ k ih =>
    obtain ⟨t, ht⟩ := step_next s
    rw [run_succ_of_step ht]
    exact ih t

/-- A property of the response state is kept by every step when it holds at reset and after every legal request, and
an illegal request keeps it: a read, and a step with nothing pending, change no register. -/
theorem step_keeps {P : State → Prop} (hregs : ∀ s t : State, registers s = registers t → P s → P t)
    (hreset : P State.reset) (hlegal : ∀ i s t, exec i s = .next t → P t)
    (hillegal : ∀ s : State, P s → P { s with status := some .illegalOp, value := none })
    (s t : State) (hs : P s) (h : step s = .next t) : P t := by
  rcases step_cases s with ⟨-, heq⟩ | ⟨w, rest, -, heq⟩ | ⟨rest, -, heq⟩ | ⟨r, rest, -, heq⟩
  · obtain rfl : s = t := Host.Outcome.next.inj (heq.symm.trans h)
    exact hs
  · rcases acceptRequest_cases w { s with inputs := rest } with ⟨i, hi⟩ | hill
    · exact hlegal i _ t (hi.symm.trans (heq.symm.trans h))
    · obtain rfl := Host.Outcome.next.inj (hill.symm.trans (heq.symm.trans h))
      exact hillegal _ (hregs s _ rfl hs)
  · obtain rfl := Host.Outcome.next.inj (heq.symm.trans h)
    exact hregs State.reset _ rfl hreset
  · obtain rfl := Host.Outcome.next.inj (heq.symm.trans h)
    exact hregs s _ rfl hs

end Sys2Proof.Machine
end

section
/-! PROOFS. State (spec/10_state.md): the statements about the registers, their reset and power-up values, the
invariants of R35, host reads and several instances. -/

namespace Sys2Proof.Machine

/-! ### The invariants of R35 -/

theorem Inv.of_registers_eq {s t : State} (h : registers s = registers t) (hs : Inv s) : Inv t := by
  obtain ⟨hstatus, hkind, hraw, hcrc, hvalue⟩ := (registers_eq_iff s t).mp h
  obtain ⟨h1, h2, h3, h4, h5⟩ := hs
  rw [hstatus] at h1 h2 h3 h4
  rw [hkind] at h2 h3
  rw [hraw] at h2 h3 h5
  rw [hcrc] at h2 h3 h5
  rw [hvalue] at h1 h2
  exact ⟨h1, h2, h3, fun hidle => h ▸ h4 hidle, h5⟩

/-- The CRC of the all-zero code is zero: no iteration sets a bit of a zero register. -/
theorem crc8_zero : crc8 0x0000 = 0x00 := by
  have hfix : crcStep 0 = 0 := by decide
  have hiter : Nat.iterate crcStep crcIterations 0 = 0 := Function.iterate_fixed hfix crcIterations
  have hwide : (0x0000 : Raw).setWidth 17 = 0 := by decide
  rw [crc8, hwide, hiter]
  decide

theorem inv_reset : Inv State.reset where
  value_iff_ok := by simp [State.reset]
  of_ok := by simp [State.reset]
  of_checksumError := by simp [State.reset]
  of_idle := fun _ => rfl
  crc_of_raw := by
    intro raw c hraw hcrc
    obtain rfl : 0x0000 = raw := Option.some.inj hraw
    obtain rfl : 0x00 = c := Option.some.inj hcrc
    exact crc8_zero.symm

theorem inv_powerUp : Inv powerUp := by
  constructor <;> simp [powerUp]

theorem converted_ne_none {kind : Kind} (h : kind = .humidity ∨ kind = .temperature) (raw : Raw) :
    converted kind raw ≠ none := by
  rcases h with rfl | rfl <;> simp [converted]

/-- A legal request establishes the invariants, whatever the state was: the outcome decides which items apply. -/
theorem CheckedTo.inv {kind : Kind} {raw : Raw} {s t : State} (hkind : kind = .humidity ∨ kind = .temperature)
    (h : CheckedTo kind raw s t) : Inv t := by
  have hcrc : ∀ r c, t.raw = some r → t.crcCalc = some c → c = crc8 r := by
    rintro r c hr hc
    obtain rfl := Option.some.inj (h.raw_eq.symm.trans hr)
    exact (Option.some.inj (h.crcCalc_eq.symm.trans hc)).symm
  rcases h.outcome with ⟨hstatus, hvalue⟩ | ⟨hstatus, hvalue⟩
  · have hne := converted_ne_none hkind raw
    exact ⟨by simp [hstatus, hvalue, hne], fun _ => ⟨kind, raw, hkind, h.kind_eq, h.raw_eq, h.crcCalc_eq, hvalue⟩,
      by simp [hstatus], by simp [hstatus], hcrc⟩
  · exact ⟨by simp [hstatus, hvalue], by simp [hstatus],
      fun _ => ⟨by simpa [h.kind_eq] using hkind, raw, h.raw_eq, h.crcCalc_eq⟩, by simp [hstatus], hcrc⟩

/-- An illegal request keeps RAW and CRC_CALC, hence item 5; the other items do not speak of ILLEGAL_OP. -/
theorem Inv.illegal {s : State} (h : Inv s) : Inv { s with status := some .illegalOp, value := none } :=
  ⟨by simp, by simp, by simp, by simp, h.crc_of_raw⟩

/-- Settles O48: at power-up every item is about a value that no cell holds. -/
theorem invariantAtReset : Obligations.InvariantAtReset := ⟨inv_reset, inv_powerUp⟩

/-- Settles O49: the invariants speak of registers alone, so only reset and the two kinds of request matter. -/
theorem invariantKept : Obligations.InvariantKept := by
  refine step_keeps (fun _ _ => Inv.of_registers_eq) inv_reset (fun i s t h => ?_) (fun _ => Inv.illegal)
  obtain ⟨kind, raw, hkind, hchecked⟩ := checkedTo_of_exec h
  exact hchecked.inv hkind

/-! ### KIND, RAW and CRC_CALC together -/

theorem CellsTogether.of_registers_eq {s t : State} (h : registers s = registers t) (hs : CellsTogether s) :
    CellsTogether t := by
  obtain ⟨hstatus, hkind, hraw, hcrc, hvalue⟩ := (registers_eq_iff s t).mp h
  rwa [CellsTogether, hstatus, hkind, hraw, hcrc, hvalue] at hs

/-- With all four cells written there is nothing left to hold together. -/
theorem Booted.cellsTogether {s : State} (h : Booted s) : CellsTogether s := by
  obtain ⟨hstatus, hkind, hraw, hcrc⟩ := h
  simp [CellsTogether, hstatus, hkind, hraw, hcrc]

theorem booted_reset : Booted State.reset := by simp [Booted, State.reset]

theorem cellsTogether_powerUp : CellsTogether powerUp := by simp [CellsTogether, powerUp]

theorem CellsTogether.illegal {s : State} (h : CellsTogether s) :
    CellsTogether { s with status := some .illegalOp, value := none } := by
  obtain ⟨hkind, hraw, -⟩ := h
  exact ⟨hkind, hraw, by simp⟩

/-- Settles O50: reset and legal requests write all four cells, an illegal request none of the three. -/
theorem writtenTogether : Obligations.WrittenTogether := by
  refine ⟨booted_reset.cellsTogether, cellsTogether_powerUp, ?_⟩
  refine step_keeps (fun _ _ => CellsTogether.of_registers_eq) booted_reset.cellsTogether (fun i s t h => ?_)
    (fun _ => CellsTogether.illegal)
  obtain ⟨kind, raw, -, hchecked⟩ := checkedTo_of_exec h
  exact hchecked.booted.cellsTogether

/-! ### What a request records and leaves -/

/-- A checked conversion uses its CRC byte in the comparison alone. -/
theorem checkConvert_eq_of_crcOk_eq (kind : Kind) (convert : Raw → Binary64) {raw : Raw} {c c' : Byte}
    (h : crcOk raw c = crcOk raw c') (s : State) :
    checkConvert kind convert raw c s = checkConvert kind convert raw c' s := by
  rw [checkConvert, checkConvert, h]

/-- Settles O37: the received byte enters by the comparison alone, and the illegal request's effect names no operand. -/
theorem nothingElseRecorded : Obligations.NothingElseRecorded := by
  refine ⟨fun msb lsb c c' s hok => ⟨?_, ?_⟩, ?_⟩
  · rw [exec_chkrh, exec_chkrh, checkConvert_eq_of_crcOk_eq .humidity rh hok]
    exact ⟨_, rfl, rfl⟩
  · rw [exec_chkt, exec_chkt, checkConvert_eq_of_crcOk_eq .temperature temp hok]
    exact ⟨_, rfl, rfl⟩
  · intro op op' msb lsb crc msb' lsb' crc' s hop hop'
    exact ⟨_, acceptRequest_illegal (decode_packRequest_of_illegalOp hop msb lsb crc) s,
      acceptRequest_illegal (decode_packRequest_of_illegalOp hop' msb' lsb' crc') s⟩

/-- Settles O38: the frame is part of what a check does; an illegal request writes STATUS and VALUE alone. -/
theorem requestFrame : Obligations.RequestFrame := by
  refine ⟨fun i s t h => ?_, fun op s t h => ?_⟩
  · obtain ⟨kind, raw, -, hchecked⟩ := checkedTo_of_exec h
    exact ⟨hchecked.inputs_eq, hchecked.answers_eq⟩
  · obtain rfl : report .illegalOp (writeValue none s) = t := Host.Outcome.next.inj h
    simp

/-! ### Host reads, the next event, power-up -/

/-- Settles O44: of the four things a step can do, doing nothing and reading leave the response state alone. -/
theorem hostReads : Obligations.HostReads := by
  refine ⟨fun r s rest h => ?_, fun s => ?_, fun s t h hne => ?_⟩
  · exact ⟨hostRead r { s with inputs := rest }, step_of_inputs_cons h, rfl, rfl, rfl⟩
  · exact ⟨fun v hv => by simp [readReg_status, hv], fun v hv => by simp [readReg_kind, hv],
      fun v hv => by simp [readReg_raw, hv], fun v hv => by simp [readReg_crcCalc, hv],
      fun v hv => by simp [readReg_value, hv]⟩
  · rcases step_cases s with ⟨-, heq⟩ | ⟨w, rest, hin, -⟩ | ⟨rest, hin, -⟩ | ⟨r, rest, -, heq⟩
    · obtain rfl : s = t := Host.Outcome.next.inj (heq.symm.trans h)
      exact absurd rfl hne
    · exact ⟨rest, .inr ⟨w, hin⟩⟩
    · exact ⟨rest, .inl hin⟩
    · obtain rfl := Host.Outcome.next.inj (heq.symm.trans h)
      exact absurd rfl hne

/-- Settles O52: the step takes the word, decodes it and runs the request. -/
theorem stepRunsDecoded : Obligations.StepRunsDecoded := by
  intro s w i rest hin hdecode _
  rw [step_of_inputs_cons hin]
  exact acceptRequest_legal hdecode _

/-- Settles O53: there is no event to take. -/
theorem idleStep : Obligations.IdleStep := fun _ => step_of_inputs_nil

/-- Settles O41: CRC_CALC is the CRC of the all-zero code. -/
theorem resetValues : Obligations.ResetValues :=
  ⟨rfl, rfl, rfl, rfl, rfl, congrArg some crc8_zero.symm, rfl, rfl⟩

/-- Settles O42: an illegal request writes STATUS and VALUE, a legal one all five registers. (`powerUp` alone names the
state.) -/
theorem powerUp_holds : Obligations.PowerUp := by
  refine ⟨rfl, fun w op h => ⟨_, acceptRequest_illegal h powerUp, rfl⟩, fun w i h => ?_, fun r => ?_⟩
  · obtain ⟨t, kind, raw, ht, -, hchecked⟩ := exec_checkedTo i powerUp
    exact ⟨t, (acceptRequest_legal h powerUp).trans ht, hchecked.booted⟩
  · cases r <;> rfl

/-! ### Reset in a run, several instances -/

/-- The reset input keeps of a state its pending events and its answers, and nothing else. -/
theorem assertReset_eq_of_eq {s s' : State} (hin : s.inputs = s'.inputs) (hans : s.answers = s'.answers) :
    assertReset s = assertReset s' := by
  simp [assertReset, hin, hans]

/-- Settles O57: the first step already makes the two states equal. -/
theorem resetForgets : Obligations.ResetForgets := by
  intro s s' es hs hs' hans
  obtain ⟨t, ht⟩ := run_next es.length (assertReset { s with inputs := es })
  have heq : assertReset { s' with inputs := es } = assertReset { s with inputs := es } :=
    assertReset_eq_of_eq rfl hans.symm
  refine ⟨t, t, ?_, ?_, rfl⟩
  · exact (run_succ_of_step (step_of_inputs_cons hs) es.length).trans ht
  · rw [← heq] at ht
    exact (run_succ_of_step (step_of_inputs_cons hs') es.length).trans ht

theorem stepInstance_eq {sys : System} {k : Nat} {s t : State} (hs : sys[k]? = some s) (h : step s = .next t) :
    stepInstance k sys = some (sys.set k t) := by
  simp [stepInstance, hs, h]

/-- Settles O58: the step's own result is set at its place in the list, and at no other. -/
theorem instancesIndependent : Obligations.InstancesIndependent := by
  intro sys k s hs
  obtain ⟨t, ht⟩ := step_next s
  obtain ⟨hk, -⟩ := List.getElem?_eq_some_iff.mp hs
  exact ⟨sys.set k t, t, stepInstance_eq hs ht, ht, List.getElem?_set_self hk,
    fun j hj => List.getElem?_set_ne hj.symm⟩

/-! ### The codes of STATUS and KIND -/

theorem statusOfCode_statusCode (st : Status) : statusOfCode (statusCode st) = some st := by
  cases st <;> rfl

theorem kindOfCode_kindCode (k : Kind) : kindOfCode (kindCode k) = some k := by
  cases k <;> rfl

/-- A code that is none of the four named ones stands for no STATUS. -/
theorem statusOfCode_reserved {c : BitVec 3} (h : 4 ≤ c.toNat) : statusOfCode c = none := by
  have hne : ∀ d : BitVec 3, d.toNat < 4 → c ≠ d := by
    rintro d hd rfl
    omega
  rw [statusOfCode, if_neg (hne 0 (by decide)), if_neg (hne 1 (by decide)), if_neg (hne 2 (by decide)),
    if_neg (hne 3 (by decide))]

/-- Settles O9: the codes are read back by name, and a reserved one by none. -/
theorem outcomeCodes : Obligations.OutcomeCodes :=
  ⟨rfl, rfl, rfl, rfl, rfl, rfl, rfl, statusOfCode_statusCode, kindOfCode_kindCode,
    fun _ => statusOfCode_reserved, rfl⟩

end Sys2Proof.Machine
end

section
/-! PROOFS. Memory (spec/20_memory.md R37, R44, R47): the raw code of two bytes, what a repeated request leaves, and the
order in which pending events take effect. -/

namespace Sys2Proof.Machine

/-! ### The raw code (R37) -/

theorem rawCode_eq_shiftLeft_or (msb lsb : Byte) :
    rawCode msb lsb = (msb.setWidth 16 <<< 8) ||| lsb.setWidth 16 :=
  (BitVec.setWidth_eq (rawCode msb lsb)).symm.trans BitVec.setWidth_append_eq_shiftLeft_setWidth_or

theorem rawCode_toNat (msb lsb : Byte) : (rawCode msb lsb).toNat = msb.toNat * 256 + lsb.toNat := by
  calc (rawCode msb lsb).toNat
    _ = msb.toNat <<< 8 ||| lsb.toNat := BitVec.toNat_append msb lsb
    _ = msb.toNat <<< 8 + lsb.toNat := (Nat.shiftLeft_add_eq_or_of_lt lsb.isLt msb.toNat).symm
    _ = msb.toNat * 256 + lsb.toNat := by rw [Nat.shiftLeft_eq]

/-- Settles O6: the two slices are the bytes that the raw code was made of. -/
theorem rawBigEndian : Obligations.RawBigEndian := fun msb lsb =>
  ⟨rawCode_eq_shiftLeft_or msb lsb, rawHigh_rawCode msb lsb, rawLow_rawCode msb lsb, rawCode_toNat msb lsb⟩

/-! ### A request after a request (R44) -/

/-- A check writes all five registers from its operands: none of the earlier response state remains. -/
theorem registers_checkConvert_eq (kind : Kind) (convert : Raw → Binary64) (raw : Raw) (crc : Byte) (s s' : State) :
    registers (checkConvert kind convert raw crc s) = registers (checkConvert kind convert raw crc s') := by
  by_cases h : crc8 raw = crc
  · subst h
    rw [checkConvert_match, checkConvert_match]
    rfl
  · rw [checkConvert_mismatch _ _ _ _ _ h, checkConvert_mismatch _ _ _ _ _ h]
    rfl

theorem registers_eq_of_exec {i : Instr} {s s' t t' : State} (h : exec i s = .next t) (h' : exec i s' = .next t') :
    registers t = registers t' := by
  cases i with
  | chkrh msb lsb crc =>
    obtain rfl := Host.Outcome.next.inj ((exec_chkrh msb lsb crc s).symm.trans h)
    obtain rfl := Host.Outcome.next.inj ((exec_chkrh msb lsb crc s').symm.trans h')
    exact registers_checkConvert_eq ..
  | chkt msb lsb crc =>
    obtain rfl := Host.Outcome.next.inj ((exec_chkt msb lsb crc s).symm.trans h)
    obtain rfl := Host.Outcome.next.inj ((exec_chkt msb lsb crc s').symm.trans h')
    exact registers_checkConvert_eq ..

theorem registers_eq_of_acceptRequest_legal {w : Word} {i : Instr} (hw : decode w = .legal i) {s s' t t' : State}
    (h : acceptRequest w s = .next t) (h' : acceptRequest w s' = .next t') : registers t = registers t' := by
  rw [acceptRequest_legal hw] at h h'
  exact registers_eq_of_exec h h'

theorem eq_of_acceptRequest_illegal {w : Word} {op : Byte} (hw : decode w = .illegal op) {s t : State}
    (h : acceptRequest w s = .next t) : t = { s with status := some .illegalOp, value := none } :=
  Host.Outcome.next.inj (h.symm.trans (acceptRequest_illegal hw s))

/-- STATUS and VALUE after a request depend on its word alone. -/
theorem status_value_eq_of_acceptRequest {w : Word} {s s' t t' : State} (h : acceptRequest w s = .next t)
    (h' : acceptRequest w s' = .next t') : t.status = t'.status ∧ t.value = t'.value := by
  cases hw : decode w with
  | legal i =>
    obtain ⟨hstatus, -, -, -, hvalue⟩ :=
      (registers_eq_iff t t').mp (registers_eq_of_acceptRequest_legal hw h h')
    exact ⟨hstatus, hvalue⟩
  | illegal op =>
    rw [eq_of_acceptRequest_illegal hw h, eq_of_acceptRequest_illegal hw h']
    exact ⟨rfl, rfl⟩

/-- The second of two equal requests changes no register. -/
theorem registers_acceptRequest_again {w : Word} {s t u : State} (h : acceptRequest w s = .next t)
    (h' : acceptRequest w t = .next u) : registers u = registers t := by
  cases hw : decode w with
  | legal i => exact registers_eq_of_acceptRequest_legal hw h' h
  | illegal op =>
    rw [eq_of_acceptRequest_illegal hw h', eq_of_acceptRequest_illegal hw h]

/-- Settles O33: a legal request leaves nothing of the earlier registers, and an illegal one writes two constants. -/
theorem idempotent : Obligations.Idempotent := by
  refine ⟨registers_hostRead, fun w s s' => ?_, fun w i s s' hw => ?_, fun w op s hw => ?_, fun w s => ?_⟩
  · obtain ⟨t, ht⟩ := acceptRequest_next w s
    obtain ⟨t', ht'⟩ := acceptRequest_next w s'
    exact ⟨t, t', ht, ht', status_value_eq_of_acceptRequest ht ht'⟩
  · obtain ⟨t, ht⟩ := acceptRequest_next w s
    obtain ⟨t', ht'⟩ := acceptRequest_next w s'
    exact ⟨t, t', ht, ht', registers_eq_of_acceptRequest_legal hw ht ht'⟩
  · exact ⟨_, acceptRequest_illegal hw s, rfl, rfl, rfl, rfl, rfl⟩
  · obtain ⟨t, ht⟩ := acceptRequest_next w s
    obtain ⟨u, hu⟩ := acceptRequest_next w t
    exact ⟨t, u, ht, hu, registers_acceptRequest_again ht hu⟩

/-! ### The order of events (R47) -/

theorem checkConvert_inputs_frame (kind : Kind) (convert : Raw → Binary64) (raw : Raw) (crc : Byte) (s : State)
    (es : List HostEvent) : checkConvert kind convert raw crc { s with inputs := es }
      = { checkConvert kind convert raw crc s with inputs := es } := by
  by_cases h : crc8 raw = crc
  · subst h
    rw [checkConvert_match, checkConvert_match]
  · rw [checkConvert_mismatch _ _ _ _ _ h, checkConvert_mismatch _ _ _ _ _ h]

theorem readReg_inputs_frame (r : RegName) (s : State) (es : List HostEvent) :
    readReg r { s with inputs := es } = readReg r s := by
  cases r <;> rfl

theorem acceptRequest_inputs_frame (w : Word) (s : State) :
    ∃ u : State, ∀ es, acceptRequest w { s with inputs := es } = .next { u with inputs := es } := by
  cases hw : decode w with
  | legal i =>
    cases i with
    | chkrh msb lsb crc =>
      refine ⟨checkConvert .humidity rh (rawCode msb lsb) crc s, fun es => ?_⟩
      rw [acceptRequest_legal hw, exec_chkrh, checkConvert_inputs_frame]
    | chkt msb lsb crc =>
      refine ⟨checkConvert .temperature temp (rawCode msb lsb) crc s, fun es => ?_⟩
      rw [acceptRequest_legal hw, exec_chkt, checkConvert_inputs_frame]
  | illegal op => exact ⟨{ s with status := some .illegalOp, value := none }, fun es => acceptRequest_illegal hw _⟩

/-- An event neither looks at the events behind it nor changes them. -/
theorem applyEvent_inputs_frame (e : HostEvent) (s : State) :
    ∃ u : State, ∀ es, applyEvent e { s with inputs := es } = .next { u with inputs := es } := by
  cases e with
  | request w => exact acceptRequest_inputs_frame w s
  | reset => exact ⟨assertReset s, fun _ => rfl⟩
  | read r =>
    refine ⟨hostRead r s, fun es => ?_⟩
    rw [applyEvent, hostRead, readReg_inputs_frame]
    rfl

/-- As many steps as there are events at the front take these events, whatever events are behind them. -/
theorem run_inputs_frame (xs : List HostEvent) (s : State) :
    ∃ u : State, ∀ ys, core.run xs.length { s with inputs := xs ++ ys } = .next { u with inputs := ys } := by
  induction xs generalizing s with
  | nil => exact ⟨s, fun _ => rfl⟩
  | cons e xs ih =>
    obtain ⟨t, ht⟩ := applyEvent_inputs_frame e s
    obtain ⟨u, hu⟩ := ih t
    refine ⟨u, fun ys => ?_⟩
    have hstep : step { s with inputs := e :: (xs ++ ys) } = .next { t with inputs := xs ++ ys } :=
      (step_of_inputs_cons rfl).trans (ht (xs ++ ys))
    exact (run_succ_of_step hstep xs.length).trans (hu ys)

/-- A run can be cut after any of its steps. -/
theorem run_add_of_next {M : Host.Core} {j : Nat} {s t : M.State} (h : M.run j s = .next t) (k : Nat) :
    M.run (j + k) s = M.run k t := by
  induction j generalizing s with
  | zero =>
    obtain rfl := Host.Outcome.next.inj h
    rw [Nat.zero_add]
  | succ j ih =>
    rw [Nat.succ_add]
    cases hs : M.step s with
    | next s' =>
      rw [run_succ_of_next hs] at h ⊢
      exact ih h
    | fault r => simp [Host.Core.run, hs] at h
    | refused r => simp [Host.Core.run, hs] at h

/-- Settles O55: the state that the first events leave is the same with any events behind them, none among these. -/
theorem eventsInOrder : Obligations.EventsInOrder := by
  intro s xs ys hin
  obtain ⟨u, hu⟩ := run_inputs_frame xs s
  have halone : core.run xs.length { s with inputs := xs } = .next { u with inputs := [] } := by
    simpa using hu []
  have hfirst : core.run xs.length s = .next { u with inputs := ys } := by
    simpa [← hin] using hu ys
  refine ⟨{ u with inputs := [] }, halone, rfl, hfirst, ?_⟩
  rw [List.length_append]
  exact run_add_of_next hfirst ys.length

end Sys2Proof.Machine
end

section
/-! PROOFS. Encoding (spec/30_encoding.md R55, R57, R60 to R65): decoder and encoder are inverse, the opcode map by
selector and by mask, the illegal selectors, and the requests that the assembler makes. -/

namespace Sys2Proof.Machine

/-! ### The decoder by selector (R63) -/

theorem decode_of_opField_chkrh {w : Word} (h : opField w = opChkrh) :
    decode w = .legal (.chkrh (msbField w) (lsbField w) (crcField w)) := by
  rw [decode, if_pos h]

theorem decode_of_opField_chkt {w : Word} (h : opField w = opChkt) :
    decode w = .legal (.chkt (msbField w) (lsbField w) (crcField w)) := by
  have hne : opField w ≠ opChkrh := by rw [h]; decide
  rw [decode, if_neg hne, if_pos h]

theorem decode_of_opField_illegal {w : Word} (hrh : opField w ≠ opChkrh) (ht : opField w ≠ opChkt) :
    decode w = .illegal (opField w) := by
  rw [decode, if_neg hrh, if_neg ht]

/-- Everything the decoder can answer, with the selector that decides it. -/
theorem decode_cases (w : Word) :
    (opField w = opChkrh ∧ decode w = .legal (.chkrh (msbField w) (lsbField w) (crcField w))) ∨
    (opField w = opChkt ∧ decode w = .legal (.chkt (msbField w) (lsbField w) (crcField w))) ∨
    (opField w ≠ opChkrh ∧ opField w ≠ opChkt ∧ decode w = .illegal (opField w)) := by
  by_cases hrh : opField w = opChkrh
  · exact .inl ⟨hrh, decode_of_opField_chkrh hrh⟩
  · by_cases ht : opField w = opChkt
    · exact .inr (.inl ⟨ht, decode_of_opField_chkt ht⟩)
    · exact .inr (.inr ⟨hrh, ht, decode_of_opField_illegal hrh ht⟩)

/-! ### Decoder and encoder are inverse (R55, R60) -/

/-- The four fields are the whole word: they are its four base-256 digits. -/
theorem packRequest_fields (w : Word) : packRequest (opField w) (msbField w) (lsbField w) (crcField w) = w := by
  have hw := w.isLt
  apply BitVec.eq_of_toNat_eq
  simp only [packRequest_toNat, opField, msbField, lsbField, crcField, BitVec.extractLsb'_toNat,
    Nat.shiftRight_eq_div_pow]
  omega

@[simp] theorem decode_encode (i : Instr) : decode (encode i) = .legal i := by
  cases i with
  | chkrh msb lsb crc =>
    rw [encode, decode_of_opField_chkrh (opField_packRequest ..), msbField_packRequest, lsbField_packRequest,
      crcField_packRequest]
  | chkt msb lsb crc =>
    rw [encode, decode_of_opField_chkt (opField_packRequest ..), msbField_packRequest, lsbField_packRequest,
      crcField_packRequest]

/-- The word of a decoded request is packed from the fields it was read from. -/
theorem encode_of_decode {w : Word} {i : Instr} (h : decode w = .legal i) : encode i = w := by
  rcases decode_cases w with ⟨hop, heq⟩ | ⟨hop, heq⟩ | ⟨-, -, heq⟩
  · obtain rfl := Decoded.legal.inj (heq.symm.trans h)
    rw [encode, ← hop, packRequest_fields]
  · obtain rfl := Decoded.legal.inj (heq.symm.trans h)
    rw [encode, ← hop, packRequest_fields]
  · cases heq.symm.trans h

/-- Settles O2: the selector packed into the word chooses the request, and the operands are read back from it. -/
theorem decodeEncode : Obligations.DecodeEncode := fun i _ => decode_encode i

/-- Settles O3: the four fields of a word determine it. -/
theorem encodeDecode : Obligations.EncodeDecode := fun _ _ => encode_of_decode

/-! ### The opcode map by mask and match (R60, R63) -/

/-- Packed words are masked field by field. -/
theorem packRequest_and (op msb lsb crc op' msb' lsb' crc' : Byte) :
    packRequest op msb lsb crc &&& packRequest op' msb' lsb' crc'
      = packRequest (op &&& op') (msb &&& msb') (lsb &&& lsb') (crc &&& crc') := by
  have h : (op ++ msb ++ lsb ++ crc) &&& (op' ++ msb' ++ lsb' ++ crc')
      = (op &&& op') ++ (msb &&& msb') ++ (lsb &&& lsb') ++ (crc &&& crc') := by
    rw [BitVec.and_append, BitVec.and_append, BitVec.and_append]
  exact h

/-- The selector mask keeps OP and clears the operands. -/
theorem and_selectorMask (w : Word) : w &&& 0xFF000000 = packRequest (opField w) 0 0 0 := by
  have hmask : (0xFF000000 : Word) = packRequest (BitVec.allOnes 8) 0 0 0 := by decide
  calc w &&& 0xFF000000
    _ = packRequest (opField w) (msbField w) (lsbField w) (crcField w) &&& packRequest (BitVec.allOnes 8) 0 0 0 := by
      rw [packRequest_fields, hmask]
    _ = packRequest (opField w) 0 0 0 := by simp [packRequest_and, -BitVec.reduceAllOnes]

/-- A word matches the mask and match value of a selector when its OP field is that selector. -/
theorem and_selectorMask_eq_iff (w : Word) (op : Byte) :
    w &&& 0xFF000000 = packRequest op 0 0 0 ↔ opField w = op := by
  rw [and_selectorMask]
  constructor
  · intro h
    simpa using congrArg opField h
  · rintro rfl
    rfl

theorem exists_decode_chkrh_iff (w : Word) :
    (∃ msb lsb crc, decode w = .legal (.chkrh msb lsb crc)) ↔ opField w = opChkrh := by
  constructor
  · rintro ⟨msb, lsb, crc, h⟩
    rw [← encode_of_decode h, encode, opField_packRequest]
  · exact fun h => ⟨_, _, _, decode_of_opField_chkrh h⟩

theorem exists_decode_chkt_iff (w : Word) :
    (∃ msb lsb crc, decode w = .legal (.chkt msb lsb crc)) ↔ opField w = opChkt := by
  constructor
  · rintro ⟨msb, lsb, crc, h⟩
    rw [← encode_of_decode h, encode, opField_packRequest]
  · exact fun h => ⟨_, _, _, decode_of_opField_chkt h⟩

/-- Settles O4: the selector decides, and the mask leaves the selector alone. -/
theorem opcodeMap : Obligations.OpcodeMap := by
  intro w
  have hrh : (0xE5000000 : Word) = packRequest opChkrh 0 0 0 := by decide
  have ht : (0xE3000000 : Word) = packRequest opChkt 0 0 0 := by decide
  refine ⟨decode_of_opField_chkrh, decode_of_opField_chkt, decode_of_opField_illegal,
    BitVec.extractLsb'_append_extractLsb'_eq_extractLsb' rfl, ?_, ?_⟩
  · rw [hrh, and_selectorMask_eq_iff, exists_decode_chkrh_iff]
  · rw [ht, and_selectorMask_eq_iff, exists_decode_chkt_iff]

/-- Settles O1: each word is packed from its four bytes, and the first of them decides. -/
theorem decodeVectors : Obligations.DecodeVectors :=
  ⟨decode_encode (.chkrh 0x68 0x3A 0x7C), decode_encode (.chkt 0x4E 0x85 0x6B), decode_encode (.chkrh 0x00 0x00 0x00),
    decode_encode (.chkt 0xFF 0xFF 0x2D), decode_packRequest_of_illegalOp (op := 0xE4) rfl 0x68 0x3A 0x7C,
    decode_packRequest_of_illegalOp (op := 0xE6) rfl 0x00 0x81 0x00,
    decode_packRequest_of_illegalOp (op := 0xE7) rfl 0x68 0x3A 0x7C,
    decode_packRequest_of_illegalOp (op := 0xFE) rfl 0x00 0x00 0x00,
    decode_packRequest_of_illegalOp (op := 0x00) rfl 0x00 0x00 0x00⟩

/-! ### Illegal selectors (R61) -/

/-- Settles O5: an illegal selector is decoded as such whatever the operands, and its request reports ILLEGAL_OP. -/
theorem illegalSpace : Obligations.IllegalSpace := by
  refine ⟨by decide +kernel, rfl, rfl, rfl, legalOp_eq_false_iff, fun op msb lsb crc s hop => ?_⟩
  exact ⟨_, acceptRequest_illegal (decode_packRequest_of_illegalOp hop msb lsb crc) s, rfl⟩

/-! ### Literals and assembled requests (R64) -/

theorem literalByte_toNat (b : Byte) : literalByte b.toNat = b := by simp [literalByte]

theorem literalRaw_toNat (raw : Raw) : literalRaw raw.toNat = raw := by simp [literalRaw]

theorem rawHigh_literalRaw {n : Nat} (h : n < 65536) : rawHigh (literalRaw n) = literalByte (n / 256) := by
  apply BitVec.eq_of_toNat_eq
  simp only [rawHigh, literalRaw, literalByte, BitVec.extractLsb'_toNat, BitVec.toNat_ofNat,
    Nat.shiftRight_eq_div_pow]
  omega

theorem rawLow_literalRaw (n : Nat) : rawLow (literalRaw n) = literalByte (n % 256) := by
  apply BitVec.eq_of_toNat_eq
  simp only [rawLow, literalRaw, literalByte, BitVec.extractLsb'_toNat, BitVec.toNat_ofNat,
    Nat.shiftRight_eq_div_pow]
  omega

theorem byteLiteralOk_iff (n : Nat) : byteLiteralOk n = true ↔ n < 256 := by simp [byteLiteralOk]

theorem rawLiteralOk_iff (n : Nat) : rawLiteralOk n = true ↔ n < 65536 := by simp [rawLiteralOk]

@[simp] theorem byteLiteralOk_toNat (b : Byte) : byteLiteralOk b.toNat = true := (byteLiteralOk_iff _).mpr b.isLt

@[simp] theorem rawLiteralOk_toNat (raw : Raw) : rawLiteralOk raw.toNat = true := (rawLiteralOk_iff _).mpr raw.isLt

theorem asmLineWellFormed_chkrh_iff (msb lsb crc : Nat) :
    asmLineWellFormed (.chkrh msb lsb crc) = true ↔ msb < 256 ∧ lsb < 256 ∧ crc < 256 := by
  simp [asmLineWellFormed, byteLiteralOk_iff, and_assoc]

theorem asmLineWellFormed_chkt_iff (msb lsb crc : Nat) :
    asmLineWellFormed (.chkt msb lsb crc) = true ↔ msb < 256 ∧ lsb < 256 ∧ crc < 256 :=
  asmLineWellFormed_chkrh_iff msb lsb crc

theorem assemble_of_wellFormed {l : AsmLine} (h : asmLineWellFormed l = true) : assemble l = some (asmEvent l) :=
  if_pos h

theorem assemble_of_not_wellFormed {l : AsmLine} (h : ¬ asmLineWellFormed l = true) : assemble l = none :=
  if_neg h

theorem assemble_chkrh {msb lsb crc : Nat} (hm : msb < 256) (hl : lsb < 256) (hc : crc < 256) :
    assemble (.chkrh msb lsb crc)
      = some (.request (encode (.chkrh (literalByte msb) (literalByte lsb) (literalByte crc)))) :=
  assemble_of_wellFormed ((asmLineWellFormed_chkrh_iff ..).mpr ⟨hm, hl, hc⟩)

theorem assemble_chkt {msb lsb crc : Nat} (hm : msb < 256) (hl : lsb < 256) (hc : crc < 256) :
    assemble (.chkt msb lsb crc)
      = some (.request (encode (.chkt (literalByte msb) (literalByte lsb) (literalByte crc)))) :=
  assemble_of_wellFormed ((asmLineWellFormed_chkt_iff ..).mpr ⟨hm, hl, hc⟩)

/-- A request packed from literals is the number with each literal at its place. -/
theorem packRequest_literalByte (op : Byte) {msb lsb crc : Nat} (hm : msb < 256) (hl : lsb < 256) (hc : crc < 256) :
    packRequest op (literalByte msb) (literalByte lsb) (literalByte crc)
      = BitVec.ofNat 32 (op.toNat * 2 ^ 24 + msb * 2 ^ 16 + lsb * 2 ^ 8 + crc) := by
  have hop := op.isLt
  apply BitVec.eq_of_toNat_eq
  simp only [packRequest_toNat, literalByte, BitVec.toNat_ofNat]
  omega

/-- Settles O8: literals in range are packed side by side, and a line with another one is not well formed. -/
theorem assembledRequests : Obligations.AssembledRequests := by
  refine fun msb lsb crc => ⟨fun ⟨hm, hl, hc⟩ => ?_, fun hout => ?_⟩
  · rw [← Nat.lt_succ_iff] at hm hl hc
    rw [assemble_chkrh hm hl hc, assemble_chkt hm hl hc, encode, encode, packRequest_literalByte _ hm hl hc,
      packRequest_literalByte _ hm hl hc]
    exact ⟨rfl, rfl⟩
  · have hnot : ¬ (msb < 256 ∧ lsb < 256 ∧ crc < 256) := by omega
    exact ⟨assemble_of_not_wellFormed (mt (asmLineWellFormed_chkrh_iff ..).mp hnot),
      assemble_of_not_wellFormed (mt (asmLineWellFormed_chkt_iff ..).mp hnot)⟩

/-! ### Pseudo-instructions (R65) -/

theorem asmLineWellFormed_chkrh16_iff (raw crc : Nat) :
    asmLineWellFormed (.chkrh16 raw crc) = true ↔ raw < 65536 ∧ crc < 256 := by
  simp [asmLineWellFormed, byteLiteralOk_iff, rawLiteralOk_iff]

theorem asmLineWellFormed_chkt16_iff (raw crc : Nat) :
    asmLineWellFormed (.chkt16 raw crc) = true ↔ raw < 65536 ∧ crc < 256 :=
  asmLineWellFormed_chkrh16_iff raw crc

/-- The two halves of a raw literal are the bytes of its quotient and remainder by 256. -/
theorem assemble_chkrh16 {raw crc : Nat} (hraw : raw < 65536) (hcrc : crc < 256) :
    assemble (.chkrh16 raw crc) = assemble (.chkrh (raw / 256) (raw % 256) crc) := by
  rw [assemble_of_wellFormed ((asmLineWellFormed_chkrh16_iff ..).mpr ⟨hraw, hcrc⟩),
    assemble_chkrh (Nat.div_lt_of_lt_mul hraw) (Nat.mod_lt _ (by decide)) hcrc, asmEvent, rawHigh_literalRaw hraw,
    rawLow_literalRaw]

theorem assemble_chkt16 {raw crc : Nat} (hraw : raw < 65536) (hcrc : crc < 256) :
    assemble (.chkt16 raw crc) = assemble (.chkt (raw / 256) (raw % 256) crc) := by
  rw [assemble_of_wellFormed ((asmLineWellFormed_chkt16_iff ..).mpr ⟨hraw, hcrc⟩),
    assemble_chkt (Nat.div_lt_of_lt_mul hraw) (Nat.mod_lt _ (by decide)) hcrc, asmEvent, rawHigh_literalRaw hraw,
    rawLow_literalRaw]

theorem assemble_chkrhGood (raw : Raw) :
    assemble (.chkrhGood raw.toNat) = some (.request (encode (.chkrh (rawHigh raw) (rawLow raw) (crc8 raw)))) := by
  rw [assemble_of_wellFormed (l := .chkrhGood raw.toNat) (rawLiteralOk_toNat raw), asmEvent,
    literalRaw_toNat]

theorem assemble_chktGood (raw : Raw) :
    assemble (.chktGood raw.toNat) = some (.request (encode (.chkt (rawHigh raw) (rawLow raw) (crc8 raw)))) := by
  rw [assemble_of_wellFormed (l := .chktGood raw.toNat) (rawLiteralOk_toNat raw), asmEvent,
    literalRaw_toNat]

/-- A `.good` line is the line of the same raw code with its computed CRC written out. -/
theorem assemble_chkrhGood_eq_chkrh16 (raw : Raw) :
    assemble (.chkrhGood raw.toNat) = assemble (.chkrh16 raw.toNat (crc8 raw).toNat) := by
  rw [assemble_chkrhGood,
    assemble_of_wellFormed ((asmLineWellFormed_chkrh16_iff ..).mpr ⟨raw.isLt, (crc8 raw).isLt⟩), asmEvent,
    literalRaw_toNat, literalByte_toNat]

theorem assemble_chktGood_eq_chkt16 (raw : Raw) :
    assemble (.chktGood raw.toNat) = assemble (.chkt16 raw.toNat (crc8 raw).toNat) := by
  rw [assemble_chktGood, assemble_of_wellFormed ((asmLineWellFormed_chkt16_iff ..).mpr ⟨raw.isLt, (crc8 raw).isLt⟩),
    asmEvent, literalRaw_toNat, literalByte_toNat]

theorem assemble_req (op msb lsb crc : Byte) :
    assemble (.req op.toNat msb.toNat lsb.toNat crc.toNat) = some (.request (packRequest op msb lsb crc)) := by
  have hwf : asmLineWellFormed (.req op.toNat msb.toNat lsb.toNat crc.toNat) = true := by
    simp [asmLineWellFormed]
  rw [assemble_of_wellFormed hwf, asmEvent]
  simp only [literalByte_toNat]

/-- Settles O7: a 16-bit literal is its two bytes, and `.good` writes out the computed CRC. -/
theorem pseudoInstructions : Obligations.PseudoInstructions :=
  ⟨fun _ _ hraw hcrc => ⟨assemble_chkrh16 hraw hcrc, assemble_chkt16 hraw hcrc⟩,
    fun raw => ⟨(assemble_chkrhGood_eq_chkrh16 raw).trans (assemble_chkrh16 raw.isLt (crc8 raw).isLt),
      (assemble_chktGood_eq_chkt16 raw).trans (assemble_chkt16 raw.isLt (crc8 raw).isLt)⟩,
    fun op msb lsb crc => ⟨assemble_req op msb lsb crc, rfl⟩⟩

/-! ### What accepted requests do (R61, R78, R105, R113) -/

theorem acceptRequest_encode (i : Instr) (s : State) : acceptRequest (encode i) s = exec i s :=
  acceptRequest_legal (decode_encode i) s

/-- A request with the computed CRC passes the check from any state. -/
theorem exec_chkrh_good (raw : Raw) (s : State) :
    ∃ t, exec (.chkrh (rawHigh raw) (rawLow raw) (crc8 raw)) s = .next t ∧
      registers t = ⟨some .ok, some .humidity, some raw, some (crc8 raw), some (rh raw)⟩ := by
  rw [exec_chkrh, rawCode_split, checkConvert_match]
  exact ⟨_, rfl, rfl⟩

theorem exec_chkt_good (raw : Raw) (s : State) :
    ∃ t, exec (.chkt (rawHigh raw) (rawLow raw) (crc8 raw)) s = .next t ∧
      registers t = ⟨some .ok, some .temperature, some raw, some (crc8 raw), some (temp raw)⟩ := by
  rw [exec_chkt, rawCode_split, checkConvert_match]
  exact ⟨_, rfl, rfl⟩

/-- Settles O39: the word that `.good` makes carries the CRC that the check computes. -/
theorem goodRequestsPass : Obligations.GoodRequestsPass := by
  refine fun raw s => ⟨?_, ?_⟩
  · obtain ⟨t, ht, hregs⟩ := exec_chkrh_good raw s
    exact ⟨_, t, assemble_chkrhGood raw, (acceptRequest_encode _ s).trans ht, hregs⟩
  · obtain ⟨t, ht, hregs⟩ := exec_chkt_good raw s
    exact ⟨_, t, assemble_chktGood raw, (acceptRequest_encode _ s).trans ht, hregs⟩

/-- Settles O54: with nothing pending nothing is taken; otherwise the oldest event is, and its effect leaves the
others pending. -/
theorem stepNeverStops : Obligations.StepNeverStops := by
  intro s
  cases hin : s.inputs with
  | nil => exact ⟨s, step_of_inputs_nil hin, hin⟩
  | cons e rest =>
    obtain ⟨u, hu⟩ := applyEvent_inputs_frame e s
    exact ⟨_, (step_of_inputs_cons hin).trans (hu rest), rfl⟩

end Sys2Proof.Machine
end

section
/-! PROOFS. Crc8 (spec/40_crc8.md R67 to R80): the CRC in a 16-bit register, its linearity, its byte-wise form, and
which changes of a triple the check finds. -/

namespace Sys2Proof.Machine

/-! ### The polynomial (R67) -/

/-- Settles O10: the literal's bits, read off. -/
theorem polynomialLiteral : Obligations.PolynomialLiteral := by
  refine ⟨rfl, ?_, ?_, ?_, ?_⟩ <;> decide

theorem poly_getLsbD (k : Nat) : poly.getLsbD k = decide (k = 16 ∨ k = 13 ∨ k = 12 ∨ k = 8) := by
  obtain ⟨-, -, hbits, -⟩ := polynomialLiteral
  by_cases hk : k < 17
  · rw [Bool.eq_iff_iff, hbits k hk, decide_eq_true_iff]
  · have hout : ¬ (k = 16 ∨ k = 13 ∨ k = 12 ∨ k = 8) := by omega
    rw [BitVec.getLsbD_of_ge poly k (by omega), decide_eq_false hout]

/-! ### The register's width (R70) -/

/-- Bit by bit, one iteration takes in the bit below and, where bit 15 is set, the literal's bit. -/
theorem getLsbD_crcStepWide (n : Nat) (w : BitVec n) (i : Nat) :
    (crcStepWide n w).getLsbD i
      = (decide (i < n) && ((decide (0 < i) && w.getLsbD (i - 1)) ^^ (w.getLsbD 15 && poly.getLsbD i))) := by
  unfold crcStepWide
  cases i <;> split <;> simp [*, Bool.and_xor_distrib_left]

theorem crcStep_eq_crcStepWide (w : CrcReg) : crcStep w = crcStepWide 17 w := by
  rw [crcStep, crcStepWide, BitVec.setWidth_eq]

/-- The aligned 0x3100 is what 16 bits hold of the literal. -/
theorem crcStep16_eq_crcStepWide (w : Raw) : crcStep16 w = crcStepWide 16 w := by
  have haligned : (0x3100 : Raw) = poly.setWidth 16 := by decide
  rw [crcStep16, crcStepWide, haligned]
  split <;> simp

/-- In a register of 17 bits or more the literal's bit 16 clears the bit that leaves the low 16, so the iteration is
the 16-bit one. -/
theorem crcStepWide_setWidth {n : Nat} (hn : 17 ≤ n) (w : Raw) :
    crcStepWide n (w.setWidth n) = (crcStep16 w).setWidth n := by
  refine BitVec.eq_of_getLsbD_eq fun i hi => ?_
  have hi' : i - 1 < n := by omega
  have h15 : 15 < n := by omega
  simp only [crcStep16_eq_crcStepWide, getLsbD_crcStepWide, BitVec.getLsbD_setWidth, hi, hi', h15, decide_true,
    Bool.true_and]
  rcases lt_trichotomy i 16 with hlow | rfl | hhigh
  · rw [decide_eq_true hlow, Bool.true_and]
  · simp [poly_getLsbD]
  · have hw : w.getLsbD (i - 1) = false := BitVec.getLsbD_of_ge w _ (by omega)
    have hpoly : poly.getLsbD i = false := BitVec.getLsbD_of_ge poly i hhigh
    simp [hw, hpoly]

theorem crcStep_setWidth (w : Raw) : crcStep (w.setWidth 17) = (crcStep16 w).setWidth 17 := by
  rw [crcStep_eq_crcStepWide, crcStepWide_setWidth le_rfl]

/-- The late truncation keeps the low 16 bits of the 17-bit iteration. -/
theorem crcStepTrunc_eq_crcStep16 (w : Raw) : crcStepTrunc w = crcStep16 w := by
  have hstep : crcStepTrunc w = (crcStep (w.setWidth 17)).setWidth 16 := by
    simp [crcStepTrunc, crcStep]
  rw [hstep, crcStep_setWidth, BitVec.setWidth_setWidth_of_le _ (by decide), BitVec.setWidth_eq]

theorem iterate_crcStepWide {n : Nat} (hn : 17 ≤ n) (k : Nat) (raw : Raw) :
    (crcStepWide n)^[k] (raw.setWidth n) = (crcStep16^[k] raw).setWidth n :=
  (Function.Semiconj.iterate_right (fun w => (crcStepWide_setWidth hn w).symm) k raw).symm

theorem iterate_crcStep (k : Nat) (raw : Raw) :
    crcStep^[k] (raw.setWidth 17) = (crcStep16^[k] raw).setWidth 17 :=
  (Function.Semiconj.iterate_right (fun w => (crcStep_setWidth w).symm) k raw).symm

/-- A 17-bit register below 2^16 is a widened 16-bit one. -/
theorem setWidth_setWidth_of_lt {w : CrcReg} (hw : w.toNat < 2 ^ 16) : (w.setWidth 16).setWidth 17 = w := by
  apply BitVec.eq_of_toNat_eq
  rw [BitVec.toNat_setWidth_of_le (by decide), BitVec.toNat_setWidth, Nat.mod_eq_of_lt hw]

theorem toNat_setWidth_lt (w : Raw) : (w.setWidth 17).toNat < 2 ^ 16 := by
  rw [BitVec.toNat_setWidth_of_le (by decide)]
  exact w.isLt

/-- The iterations of R68 fit in exactly 16 bits, so later proofs speak of the 16-bit register alone. -/
theorem crc8_eq_iterate_crcStep16 (raw : Raw) : crc8 raw = rawHigh (crcStep16^[16] raw) := by
  rw [crc8, crcIterations, iterate_crcStep]
  exact BitVec.extractLsb'_setWidth_of_le (by decide)

/-- Settles O11: each form of the iteration is the 16-bit one, and a register that holds 16 bits is a widened one. -/
theorem crcWidthIndependent : Obligations.CrcWidthIndependent := by
  refine ⟨fun w hw => ?_, crcStepTrunc_eq_crcStep16, fun raw k => ?_, fun raw => ?_, fun raw => ?_,
    fun n hn raw => ?_⟩
  · have hstep : crcStep w = (crcStep16 (w.setWidth 16)).setWidth 17 := by
      rw [← crcStep_setWidth, setWidth_setWidth_of_lt hw]
    rw [hstep]
    exact ⟨toNat_setWidth_lt _, by simp⟩
  · rw [iterate_crcStep]
    exact toNat_setWidth_lt _
  · exact (crc8_eq_iterate_crcStep16 raw).symm
  · rw [funext crcStepTrunc_eq_crcStep16]
    exact (crc8_eq_iterate_crcStep16 raw).symm
  · rw [iterate_crcStepWide hn, crc8_eq_iterate_crcStep16]
    exact BitVec.extractLsb'_setWidth_of_le (by omega)

/-! ### Linearity (R74 item 2) -/

/-- Shift and test are both linear, so one iteration is. -/
theorem crcStep16_xor (a b : Raw) : crcStep16 (a ^^^ b) = crcStep16 a ^^^ crcStep16 b := by
  refine BitVec.eq_of_getLsbD_eq fun i hi => ?_
  simp only [crcStep16_eq_crcStepWide, BitVec.getLsbD_xor, getLsbD_crcStepWide, hi, decide_true, Bool.true_and,
    Bool.and_xor_distrib_left, Bool.and_xor_distrib_right, Bool.xor_assoc, Bool.xor_left_comm]

theorem iterate_crcStep16_xor (k : Nat) (a b : Raw) :
    crcStep16^[k] (a ^^^ b) = crcStep16^[k] a ^^^ crcStep16^[k] b :=
  Function.Semiconj₂.iterate crcStep16_xor k a b

theorem crc8_xor (a b : Raw) : crc8 (a ^^^ b) = crc8 a ^^^ crc8 b := by
  simp only [crc8_eq_iterate_crcStep16, iterate_crcStep16_xor, rawHigh, BitVec.extractLsb'_xor]

theorem rawCode_xor (m l m' l' : Byte) : rawCode m l ^^^ rawCode m' l' = rawCode (m ^^^ m') (l ^^^ l') :=
  BitVec.xor_append

/-! ### The byte-wise form (R72) -/

theorem crcByteStep_eq_crcTable (c b : Byte) : crcByteStep c b = crcTable (c ^^^ b) := by
  simp [crcTable, crcByteStep]

theorem iterate_crcByteShift_eight (b : Byte) : crcByteShift^[8] b = crcTable b := by
  simp [crcTable, crcByteStep]

theorem rawCode_low_zero_shiftLeft_one (c : Byte) : rawCode c 0 <<< 1 = rawCode (c <<< 1) 0 := by
  have hzero : (0 : Byte).toNat = 0 := rfl
  apply BitVec.eq_of_toNat_eq
  simp only [rawCode_toNat, BitVec.toNat_shiftLeft, Nat.shiftLeft_eq, hzero]
  omega

theorem rawCode_shiftLeft_eight (msb lsb : Byte) : rawCode msb lsb <<< 8 = rawCode lsb 0 := by
  have hzero : (0 : Byte).toNat = 0 := rfl
  apply BitVec.eq_of_toNat_eq
  simp only [rawCode_toNat, BitVec.toNat_shiftLeft, Nat.shiftLeft_eq, hzero]
  omega

/-- With its low byte empty the 16-bit register is the byte-wise one. -/
theorem crcStep16_rawCode_low_zero (c : Byte) : crcStep16 (rawCode c 0) = rawCode (crcByteShift c) 0 := by
  have hpoly : (0x3100 : Raw) = rawCode 0x31 0 := by decide
  have htop : (rawCode c 0).getLsbD 15 = c.getLsbD 7 := rawCode_getLsbD c 0 15
  rw [crcStep16, crcByteShift, htop, rawCode_low_zero_shiftLeft_one, hpoly]
  split
  · exact rawCode_xor (c <<< 1) 0 0x31 0
  · simp

theorem iterate_crcStep16_rawCode_low_zero (k : Nat) (c : Byte) :
    crcStep16^[k] (rawCode c 0) = rawCode (crcByteShift^[k] c) 0 :=
  (Function.Semiconj.iterate_right (f := (rawCode · 0)) (fun c => (crcStep16_rawCode_low_zero c).symm) k c).symm

/-- No bit of the low byte reaches the tested bit in the first eight iterations: they only shift. -/
theorem iterate_crcStep16_of_lt_two_pow_eight {k : Nat} (hk : k ≤ 8) {w : Raw} (hw : w.toNat < 2 ^ 8) :
    crcStep16^[k] w = w <<< k := by
  induction k with
  | zero => simp
  | succ k ih =>
    have hbit : w.getLsbD (15 - k) = false :=
      Nat.testBit_lt_two_pow (hw.trans_le (Nat.pow_le_pow_right (by decide) (by omega)))
    have htop : (w <<< k).getLsbD 15 = false := by
      rw [BitVec.getLsbD_shiftLeft, hbit, Bool.and_false]
    rw [Function.iterate_succ_apply', ih (by omega), crcStep16, htop]
    simp [BitVec.shiftLeft_add]

/-- Eight iterations take the high byte through the table and bring the low byte up. -/
theorem iterate_crcStep16_eight (msb lsb : Byte) :
    crcStep16^[8] (rawCode msb lsb) = rawCode (crcTable msb ^^^ lsb) 0 := by
  have hlow : crcStep16^[8] (rawCode 0 lsb) = rawCode lsb 0 := by
    have hlt : (rawCode 0 lsb).toNat < 2 ^ 8 := by
      rw [rawCode_toNat]
      simpa using lsb.isLt
    rw [iterate_crcStep16_of_lt_two_pow_eight le_rfl hlt, rawCode_shiftLeft_eight]
  calc crcStep16^[8] (rawCode msb lsb)
    _ = crcStep16^[8] (rawCode msb 0 ^^^ rawCode 0 lsb) := by simp [rawCode_xor]
    _ = rawCode (crcTable msb) 0 ^^^ rawCode lsb 0 := by
      rw [iterate_crcStep16_xor, iterate_crcStep16_rawCode_low_zero, iterate_crcByteShift_eight, hlow]
    _ = rawCode (crcTable msb ^^^ lsb) 0 := by simp [rawCode_xor]

theorem crc8_rawCode (msb lsb : Byte) : crc8 (rawCode msb lsb) = crcTable (crcTable msb ^^^ lsb) := by
  rw [crc8_eq_iterate_crcStep16, Function.iterate_add_apply crcStep16 8 8, iterate_crcStep16_eight,
    iterate_crcStep16_rawCode_low_zero, rawHigh_rawCode, iterate_crcByteShift_eight]

theorem crc8_eq_crcTable (raw : Raw) : crc8 raw = crcTable (crcTable (rawHigh raw) ^^^ rawLow raw) := by
  rw [← crc8_rawCode, rawCode_split]

/-- Settles O12: each byte takes eight iterations, in the register's high byte. -/
theorem crcBytewise : Obligations.CrcBytewise := by
  refine fun raw => ⟨?_, crc8_eq_crcTable raw⟩
  rw [crcByteStep_eq_crcTable (crcByteStep _ _)]
  exact crc8_eq_crcTable raw

/-! ### Properties of crc8 (R74) -/

/-- A leading zero MSB contributes nothing. -/
theorem crc8_rawCode_high_zero (b : Byte) : crc8 (rawCode 0x00 b) = crcTable b := by
  have hzero : crcTable 0x00 = 0x00 := by decide
  rw [crc8_rawCode, hzero]
  simp

theorem crc8_single_bits : (List.range 16).map (fun k => crc8 ((1 : Raw) <<< k))
    = [0x31, 0x62, 0xC4, 0xB9, 0x43, 0x86, 0x3D, 0x7A, 0xF4, 0xD9, 0x83, 0x37, 0x6E, 0xDC, 0x89, 0x23] := by
  decide +kernel

theorem crc8_single_bit_ne_zero : ∀ k < 16, crc8 ((1 : Raw) <<< k) ≠ 0 := by decide +kernel

/-- A change that leaves a word the same is none. -/
theorem xor_ne_self {n : Nat} (a : BitVec n) {e : BitVec n} (he : e ≠ 0) : a ^^^ e ≠ a := fun h =>
  he ((BitVec.xor_right_inj a).mp (h.trans BitVec.xor_zero.symm))

/-- Settles O13: linearity brings a flipped raw bit to the sixteen single-bit codes. -/
theorem crcProperties : Obligations.CrcProperties := by
  refine ⟨crc8_zero, crc8_xor, crc8_rawCode_high_zero, crc8_single_bits, fun raw k hk => ?_, ?_⟩
  · rw [crc8_xor]
    exact xor_ne_self _ (crc8_single_bit_ne_zero k hk)
  · decide +kernel

/-! ### The check (R78, R79) -/

theorem crcOk_eq_false_iff (raw : Raw) (c : Byte) : crcOk raw c = false ↔ crc8 raw ≠ c := by
  rw [← Bool.not_eq_true, crcOk_iff]

theorem single_bit_ne_zero : ∀ k < 8, (1 : Byte) <<< k ≠ 0 := by decide

theorem checkConvert_status_of_ne (kind : Kind) (convert : Raw → Binary64) {raw : Raw} {c : Byte} (h : crc8 raw ≠ c)
    (s : State) : (checkConvert kind convert raw c s).status = some .checksumError := by
  rw [checkConvert_mismatch kind convert raw c s h]

/-- Settles O14: the check compares with one byte, and a flipped bit makes another. -/
theorem crcRoundTrip : Obligations.CrcRoundTrip := by
  intro r
  have hflip : ∀ k < 8, crc8 r ≠ crc8 r ^^^ ((1 : Byte) <<< k) := fun k hk =>
    (xor_ne_self _ (single_bit_ne_zero k hk)).symm
  refine ⟨(crcOk_iff r _).mpr rfl, fun k hk => (crcOk_eq_false_iff r _).mpr (hflip k hk), ?_, fun k hk s => ?_⟩
  · exact ⟨crc8 r, (crcOk_iff r _).mpr rfl, fun c hc => ((crcOk_iff r c).mp hc).symm⟩
  · rw [exec_chkrh, exec_chkt, rawCode_split]
    exact ⟨⟨_, rfl, checkConvert_status_of_ne .humidity rh (hflip k hk) s⟩,
      _, rfl, checkConvert_status_of_ne .temperature temp (hflip k hk) s⟩

/-- Settles O16: a check computes the CRC of its raw code, whatever it converts to. -/
theorem sameCrcForBoth : Obligations.SameCrcForBoth := by
  intro msb lsb crc crc' s s'
  have hrh : CheckedTo .humidity (rawCode msb lsb) s _ := checkedTo_checkConvert rfl crc s
  have ht : CheckedTo .temperature (rawCode msb lsb) s' _ := checkedTo_checkConvert rfl crc' s'
  exact ⟨_, _, exec_chkrh .., exec_chkt .., hrh.crcCalc_eq, ht.crcCalc_eq.trans hrh.crcCalc_eq.symm⟩

/-! ### Changes that the check finds (R80) -/

/-- The computed CRC of a 24-bit triple (raw, crc_rx) against its CRC byte. -/
def syndrome (triple : BitVec 24) : Byte := crc8 (triple.extractLsb' 8 16) ^^^ triple.extractLsb' 0 8

theorem crcOk_iff_syndrome (triple : BitVec 24) :
    crcOk (triple.extractLsb' 8 16) (triple.extractLsb' 0 8) = true ↔ syndrome triple = 0 :=
  (crcOk_iff _ _).trans BitVec.xor_eq_zero_iff.symm

theorem syndrome_xor (a b : BitVec 24) : syndrome (a ^^^ b) = syndrome a ^^^ syndrome b := by
  simp only [syndrome, BitVec.extractLsb'_xor, crc8_xor]
  ac_rfl

/-- A change passes the check only where its own syndrome is zero. -/
theorem crcOk_xor_eq_false {triple : BitVec 24}
    (hok : crcOk (triple.extractLsb' 8 16) (triple.extractLsb' 0 8) = true) {e : BitVec 24} (he : syndrome e ≠ 0) :
    crcOk ((triple ^^^ e).extractLsb' 8 16) ((triple ^^^ e).extractLsb' 0 8) = false := by
  rw [← Bool.not_eq_true, crcOk_iff_syndrome, syndrome_xor, (crcOk_iff_syndrome triple).mp hok]
  simpa using he

theorem syndrome_single_bit_ne_zero : ∀ i < 24, syndrome ((1 : BitVec 24) <<< i) ≠ 0 := by decide +kernel

theorem syndrome_single_bit_ne : ∀ i < 24, ∀ j < 24, i ≠ j →
    syndrome ((1 : BitVec 24) <<< i) ≠ syndrome ((1 : BitVec 24) <<< j) := by decide +kernel

/-- Settles O15: the twenty-four single-bit syndromes are not zero and all different. -/
theorem errorDetection : Obligations.ErrorDetection := by
  refine ⟨fun triple hok i hi j hj => ⟨?_, fun hij => ?_⟩, ?_⟩
  · exact crcOk_xor_eq_false hok (syndrome_single_bit_ne_zero i hi)
  · intro two
    have htwo : two = triple ^^^ ((1 : BitVec 24) <<< i ^^^ (1 : BitVec 24) <<< j) := BitVec.xor_assoc ..
    rw [htwo]
    refine crcOk_xor_eq_false hok ?_
    rw [syndrome_xor]
    exact BitVec.xor_eq_zero_iff.not.mpr (syndrome_single_bit_ne i hi j hj hij)
  · decide +kernel

end Sys2Proof.Machine
end

section
/-! PROOFS. Real results (spec/00_scope.md R15, spec/41_conversion.md R81, R82): the value of a normal datum, and the
rounding of a real number: it is exact where the number has at most 53 bits above the place of 2^-1074, it is within
half a place otherwise, and a number other than zero has one rounding only. -/

namespace Sys2Proof.Machine

/-! ### The value of a datum (R81) -/

theorem f64Mag_of_exp_ne_zero {v : Binary64} (h : f64Exp v ≠ 0) :
    f64Mag v = (2 ^ 52 + f64Frac v) * 2 ^ (f64Exp v - 1) := by
  rw [f64Mag, if_neg h]

theorem f64Mag_of_exp_eq_zero {v : Binary64} (h : f64Exp v = 0) : f64Mag v = f64Frac v := by
  rw [f64Mag, if_pos h]

theorem f64Unit_cast : (f64Unit : ℚ) = 2 ^ 1074 := by
  rw [f64Unit, Nat.cast_pow, Nat.cast_ofNat]

theorem abs_f64Value (v : Binary64) : |f64Value v| = f64Mag v / f64Unit := by
  rw [f64Value, f64Int_eq_signFactor_mul, Int.cast_mul, abs_div, abs_mul, abs_signFactor, one_mul,
    Int.cast_natCast, Nat.abs_cast, Nat.abs_cast]

theorem f64IsNormal_iff (v : Binary64) : f64IsNormal v = true ↔ f64Exp v ≠ 0 ∧ f64Exp v ≠ 2047 := by
  simp [f64IsNormal]

/-- The scale of an exponent: the units of its smallest significand, over the units of 1. -/
theorem two_pow_exp_div_unit {e : Nat} (he : e ≠ 0) :
    (2 : ℚ) ^ 52 * 2 ^ (e - 1) / f64Unit = 2 ^ ((e : ℤ) - 1023) := by
  have hexp : (e : ℤ) - 1023 = (52 + (e - 1 : ℕ) : ℕ) - (1074 : ℕ) := by omega
  rw [f64Unit_cast, hexp, zpow_sub₀ two_ne_zero, zpow_natCast, zpow_natCast, pow_add]

/-- Settles O17: the units of a normal datum are its significand, shifted by its exponent less one. -/
theorem normalValue : Obligations.NormalValue := by
  intro v hv
  obtain ⟨hexp, -⟩ := (f64IsNormal_iff v).mp hv
  have hsign : (signFactor (f64Neg v) : ℚ) = if v.getLsbD 63 then -1 else 1 := by
    rw [signFactor, f64Neg]
    split <;> simp
  rw [f64Value, f64Int_eq_signFactor_mul, f64Mag_of_exp_ne_zero hexp, ← hsign, ← f64Exp, ← f64Frac,
    ← two_pow_exp_div_unit hexp]
  push_cast
  ring

/-- A finite datum that is not below the smallest normal number is normal. -/
theorem f64IsNormal_of_le_abs {v : Binary64} (hfin : f64Exp v ≠ 2047) (h : 1 / 2 ^ 1022 ≤ |f64Value v|) :
    f64IsNormal v = true := by
  refine (f64IsNormal_iff v).mpr ⟨fun hexp => absurd h (not_le.mpr ?_), hfin⟩
  have hfrac : (f64Frac v : ℚ) < 2 ^ 52 := by exact_mod_cast (BitVec.isLt _ : f64Frac v < 2 ^ 52)
  rw [abs_f64Value, f64Mag_of_exp_eq_zero hexp, f64Unit_cast, div_lt_div_iff₀ (by positivity) (by positivity),
    one_mul]
  calc (f64Frac v : ℚ) * 2 ^ 1022 < 2 ^ 52 * 2 ^ 1022 := mul_lt_mul_of_pos_right hfrac (by positivity)
    _ = 2 ^ 1074 := (pow_add ..).symm

/-! ### The error of a rounding -/

/-- A quotient is rounded by half a place at most. -/
theorem two_mul_unitError_roundDiv_le {den : Nat} (hden : 0 < den) (num : Nat) :
    2 * unitError num den (roundDiv num den) ≤ den := by
  have hlt := Nat.mod_lt num hden
  rw [unitError_eq_sub_div]
  rcases (roundDiv_cases num den).1 with ⟨h, hside⟩ | ⟨h, hside⟩
  · rw [h, sub_self, zero_mul]
    omega
  · rw [h, Nat.cast_succ, add_sub_cancel_left, one_mul]
    omega

theorem roundedUnits_cast (num den : Nat) :
    (roundedUnits num den : ℤ) = 2 ^ roundShift num den * roundSig num den := by
  rw [roundedUnits, mul_comm]
  push_cast
  rfl

theorem two_mul_unitError_roundedUnits_le {den : Nat} (hden : 0 < den) (num : Nat) :
    2 * unitError num den (roundedUnits num den) ≤ den * 2 ^ roundShift num den := by
  rw [roundedUnits_cast, ← unitError_mul_two_pow, roundSig]
  exact two_mul_unitError_roundDiv_le (Nat.mul_pos hden (Nat.two_pow_pos _)) num

theorem abs_f64Value_roundF64_sub (neg : Bool) {num den : Nat} (hden : 0 < den) (h : roundMag num den < f64InfMag) :
    |f64Value (roundF64 neg num den) - exactValue neg num den|
      = (unitError num den (roundedUnits num den) : ℚ) / (den * f64Unit) := by
  rw [abs_f64Value_sub_exactValue _ neg num hden, signFactor_mul_f64Int_roundF64 neg h]

/-! ### The shift of a bounded number -/

theorem roundShift_le_of_lt {num den j : Nat} (h : num / den < 2 ^ (53 + j)) : roundShift num den ≤ j := by
  rcases Nat.eq_zero_or_pos (num / den) with h0 | hpos
  · simp [roundShift, h0]
  · have hlog := (Nat.log2_lt hpos.ne').mpr h
    rw [roundShift]
    omega

/-- A shift below that of the largest finite numbers keeps the rounding finite. -/
theorem roundMag_lt_of_roundShift_lt {num den : Nat} (h : roundShift num den < 2045) :
    roundMag num den < f64InfMag := by
  have hsig := (roundSig_bounds num den).1
  rw [roundSig] at hsig
  simp only [roundMag, f64InfMag]
  omega

theorem abs_exactValue (neg : Bool) (num den : Nat) : |exactValue neg num den| = num / den / f64Unit := by
  rw [exactValue_eq_signFactor_mul, abs_div, abs_mul, abs_signFactor, one_mul, abs_div, Nat.abs_cast, Nat.abs_cast,
    Nat.abs_cast]

theorem roundShift_le_of_abs_exactValue_lt {neg : Bool} {num den : Nat} (hden : 0 < den) {e : Nat}
    (h : |exactValue neg num den| < 2 ^ e) : roundShift num den ≤ 1021 + e := by
  refine roundShift_le_of_lt ((Nat.div_lt_iff_lt_mul hden).mpr ?_)
  have hd : (0 : ℚ) < den := Nat.cast_pos.mpr hden
  rw [abs_exactValue, div_lt_iff₀ f64Unit_cast_pos, div_lt_iff₀ hd, f64Unit_cast, ← pow_add] at h
  have hexp : 53 + (1021 + e) = e + 1074 := by omega
  rw [hexp]
  exact_mod_cast h

/-! ### Roundings of a real number -/

/-- `v` is a rounding of the real number `x`: what R82 asks of an operation whose exact result is `x`. -/
def IsRoundingOf (v : Binary64) (x : ℚ) : Prop :=
  ∃ neg num den, 0 < den ∧ exactValue neg num den = x ∧ v = roundF64 neg num den

theorem isRoundingOf_fadd {a b : Binary64} (ha : f64Exp a ≠ 2047) (hb : f64Exp b ≠ 2047) :
    IsRoundingOf (fadd a b) (f64Value a + f64Value b) :=
  let ⟨hadd, _, _⟩ := operationsRoundOnce a b ha hb
  hadd

theorem isRoundingOf_fmul {a b : Binary64} (ha : f64Exp a ≠ 2047) (hb : f64Exp b ≠ 2047) :
    IsRoundingOf (fmul a b) (f64Value a * f64Value b) :=
  let ⟨_, hmul, _⟩ := operationsRoundOnce a b ha hb
  hmul

theorem isRoundingOf_fdiv {a b : Binary64} (ha : f64Exp a ≠ 2047) (hb : f64Exp b ≠ 2047) (hne : f64Value b ≠ 0) :
    IsRoundingOf (fdiv a b) (f64Value a / f64Value b) :=
  let ⟨_, _, hdiv⟩ := operationsRoundOnce a b ha hb
  hdiv hne

theorem exactValue_mul_unit (neg : Bool) (num den : Nat) :
    exactValue neg (num * f64Unit) den = signFactor neg * (num / den) := by
  have hu := f64Unit_cast_pos
  rw [exactValue_eq_signFactor_mul]
  push_cast
  field_simp

theorem isRoundingOf_f64 (neg : Bool) (num : Nat) {den : Nat} (hden : 0 < den) :
    IsRoundingOf (f64 neg num den) (signFactor neg * (num / den)) :=
  ⟨neg, _, den, hden, exactValue_mul_unit neg num den, rfl⟩

theorem isRoundingOf_toF64 (n : Nat) : IsRoundingOf (toF64 n) n := by
  refine ⟨false, _, 1, Nat.one_pos, ?_, rfl⟩
  rw [exactValue_mul_unit, signFactor, if_neg Bool.false_ne_true, Int.cast_one, one_mul, Nat.cast_one, div_one]

/-- Below `2^e` the places kept are `2^e / 2^53` apart or less, and rounding moves by half of that at most. -/
theorem IsRoundingOf.near {v : Binary64} {x : ℚ} (h : IsRoundingOf v x) {e : Nat} (he : e ≤ 1023)
    (hx : |x| < 2 ^ e) : f64Exp v ≠ 2047 ∧ |f64Value v - x| ≤ 2 ^ e / 2 ^ 54 := by
  obtain ⟨neg, num, den, hden, rfl, rfl⟩ := h
  have hshift := roundShift_le_of_abs_exactValue_lt hden hx
  have hfin : roundMag num den < f64InfMag := roundMag_lt_of_roundShift_lt (by omega)
  refine ⟨f64Exp_roundF64_ne neg hfin, ?_⟩
  have hd : (0 : ℚ) < den := Nat.cast_pos.mpr hden
  have herr : 2 * (unitError num den (roundedUnits num den) : ℚ) ≤ den * 2 ^ (1021 + e) := by
    have hle := (two_mul_unitError_roundedUnits_le hden num).trans
      (Nat.mul_le_mul_left den (Nat.pow_le_pow_right two_pos hshift))
    exact_mod_cast hle
  have hunit : (2 : ℚ) ^ 1074 = 2 ^ 1021 * 2 ^ 53 := pow_add 2 1021 53
  have hpos : (0 : ℚ) < 2 ^ 1021 := pow_pos two_pos _
  rw [pow_add] at herr
  rw [abs_f64Value_roundF64_sub neg hden hfin, f64Unit_cast, hunit]
  generalize (2 : ℚ) ^ 1021 = p at herr hpos ⊢
  rw [div_le_div_iff₀ (by positivity) (by positivity)]
  linarith

/-- A whole number of units that fits the places kept is a multiple of the step, so rounding does not move it. -/
theorem unitError_roundedUnits_eq_zero {den : Nat} (hden : 0 < den) {m j : Nat} (hm : m < 2 ^ 53) :
    unitError (m * 2 ^ j * den) den (roundedUnits (m * 2 ^ j * den) den) = 0 := by
  have hshift : roundShift (m * 2 ^ j * den) den ≤ j := by
    refine roundShift_le_of_lt ?_
    rw [Nat.mul_div_cancel _ hden, Nat.pow_add]
    exact Nat.mul_lt_mul_of_pos_right hm (Nat.two_pow_pos j)
  have hdvd : (2 : ℤ) ^ roundShift (m * 2 ^ j * den) den ∣ (m * 2 ^ j : ℕ) := by
    exact_mod_cast Dvd.dvd.mul_left (Nat.pow_dvd_pow 2 hshift) m
  have hzero : unitError (m * 2 ^ j * den) den (m * 2 ^ j : ℕ) = 0 := by
    rw [unitError, Nat.cast_mul (m * 2 ^ j) den, sub_self, Int.natAbs_zero]
  exact Nat.le_zero.mp ((roundedUnits_nearest_multiple hden hdvd).1.trans_eq hzero)

theorem abs_int_div_two_pow (m : ℤ) (k : Nat) : |(m : ℚ) / 2 ^ k| = m.natAbs / 2 ^ k := by
  rw [abs_div, abs_of_pos (pow_pos two_pos k : (0 : ℚ) < 2 ^ k), Nat.cast_natAbs, Int.cast_abs]

/-- A number of at most 53 bits, the last at `2^-k`, is a datum, and its rounding is that datum. -/
theorem IsRoundingOf.exact {v : Binary64} {x : ℚ} (h : IsRoundingOf v x) {m : ℤ} {k : Nat} (hx : x = m / 2 ^ k)
    (hm : |m| < 2 ^ 53) (hk : k ≤ 1074) : f64Exp v ≠ 2047 ∧ f64Value v = x := by
  have hmNat : m.natAbs < 2 ^ 53 := by
    rw [Int.abs_eq_natAbs] at hm
    exact_mod_cast hm
  have habs : |x| = m.natAbs / 2 ^ k := by rw [hx, abs_int_div_two_pow]
  have hlt : |x| < 2 ^ 53 := by
    rw [habs]
    exact (div_le_self (Nat.cast_nonneg _) (one_le_pow₀ one_le_two)).trans_lt (by exact_mod_cast hmNat)
  refine ⟨(h.near (by decide) hlt).1, ?_⟩
  obtain ⟨neg, num, den, hden, rfl, rfl⟩ := h
  have hshift := roundShift_le_of_abs_exactValue_lt hden hlt
  have hfin : roundMag num den < f64InfMag := roundMag_lt_of_roundShift_lt (by omega)
  have hnum : num = m.natAbs * 2 ^ (1074 - k) * den := by
    have hd : (0 : ℚ) < den := Nat.cast_pos.mpr hden
    rw [abs_exactValue, f64Unit_cast, ← Nat.sub_add_cancel hk, pow_add] at habs
    field_simp at habs
    rw [mul_comm, mul_comm m.natAbs, ← mul_assoc]
    exact_mod_cast habs
  rw [← sub_eq_zero, ← abs_eq_zero, abs_f64Value_roundF64_sub neg hden hfin, hnum,
    unitError_roundedUnits_eq_zero hden hmNat, Nat.cast_zero, zero_div]

/-! ### One rounding only -/

theorem roundDiv_mul_right (num den : Nat) {c : Nat} (hc : 0 < c) :
    roundDiv (num * c) (den * c) = roundDiv num den := by
  have hlt : den * c < 2 * (num % den * c) ↔ den < 2 * (num % den) := by
    rw [← mul_assoc, Nat.mul_lt_mul_right hc]
  have heq : 2 * (num % den * c) = den * c ↔ 2 * (num % den) = den := by
    rw [← mul_assoc, Nat.mul_left_inj hc.ne']
  simp only [roundDiv, Nat.mul_div_mul_right num den hc, Nat.mul_mod_mul_right, hlt, Bool.beq_eq_decide_eq, heq]

theorem roundMag_mul_right (num den : Nat) {c : Nat} (hc : 0 < c) :
    roundMag (num * c) (den * c) = roundMag num den := by
  simp only [roundMag, roundShift, Nat.mul_div_mul_right num den hc, Nat.mul_right_comm den c,
    roundDiv_mul_right _ _ hc]

theorem roundMag_eq_of_div_eq {num den num' den' : Nat} (hden : 0 < den) (hden' : 0 < den')
    (h : num * den' = num' * den) : roundMag num den = roundMag num' den' := by
  rw [← roundMag_mul_right num den hden', h, mul_comm den, roundMag_mul_right num' den' hden]

/-- The sign of an exact value that is not zero is the sign given. -/
theorem exactValue_neg_iff {neg : Bool} {num den : Nat} (h : exactValue neg num den ≠ 0) :
    exactValue neg num den < 0 ↔ neg = true := by
  have hpos := abs_pos.mpr h
  rw [abs_exactValue] at hpos
  rw [exactValue_eq_signFactor_mul]
  cases neg
  · simp only [signFactor, Bool.false_eq_true, if_false, Int.cast_one, one_mul, iff_false, not_lt]
    exact hpos.le
  · simp only [signFactor, if_true, Int.cast_neg, Int.cast_one, neg_one_mul, neg_div, iff_true]
    exact neg_neg_of_pos hpos

/-- Of a number that is not zero there is one rounding only, however it is written as a quotient. -/
theorem IsRoundingOf.unique {v w : Binary64} {x : ℚ} (hx : x ≠ 0) (hv : IsRoundingOf v x) (hw : IsRoundingOf w x) :
    v = w := by
  obtain ⟨neg, num, den, hden, hval, rfl⟩ := hv
  obtain ⟨neg', num', den', hden', hval', rfl⟩ := hw
  have hneg : neg = neg' := by
    rw [Bool.eq_iff_iff, ← exactValue_neg_iff (hval.trans_ne hx), ← exactValue_neg_iff (hval'.trans_ne hx), hval,
      hval']
  have hquot : num * den' = num' * den := by
    have habs : (num : ℚ) / den / f64Unit = num' / den' / f64Unit := by
      rw [← abs_exactValue neg, ← abs_exactValue neg', hval, hval']
    rw [div_left_inj' f64Unit_cast_pos.ne', div_eq_div_iff (Nat.cast_ne_zero.mpr hden.ne')
      (Nat.cast_ne_zero.mpr hden'.ne')] at habs
    exact_mod_cast habs
  rw [roundF64, roundF64, hneg, roundMag_eq_of_div_eq hden hden' hquot]

end Sys2Proof.Machine
end

section
/-! PROOFS. Conversion (spec/41_conversion.md R83 to R96): the constants, the exact quotient and humidity, and the
temperature, which two roundings leave within 2^-45 of the unrounded formula. Neighbouring codes lie more than 2^-9
apart in that formula, so the statements about temperature follow from it, with a few data evaluated. -/

namespace Sys2Proof.Machine

/-! ### The constants (R83) -/

theorem f64_integer_exact (neg : Bool) {n : Nat} (hn : n < 2 ^ 53) :
    f64Exp (f64 neg n 1) ≠ 2047 ∧ f64Value (f64 neg n 1) = signFactor neg * n := by
  have hround := isRoundingOf_f64 neg n Nat.one_pos
  rw [Nat.cast_one, div_one] at hround
  refine hround.exact (m := signFactor neg * n) (k := 0) (by push_cast; ring) ?_ (by decide)
  cases neg <;> simp [signFactor] <;> omega

theorem rhOff_exact : f64Exp rhOff ≠ 2047 ∧ f64Value rhOff = -6 := by
  simpa [signFactor, rhOff] using f64_integer_exact true (n := 6) (by decide)

theorem rhScale_exact : f64Exp rhScale ≠ 2047 ∧ f64Value rhScale = 125 := by
  simpa [signFactor, rhScale] using f64_integer_exact false (n := 125) (by decide)

theorem divisor_exact : f64Exp divisor ≠ 2047 ∧ f64Value divisor = 2 ^ 16 := by
  have h := f64_integer_exact false (n := 65536) (by decide)
  norm_num [signFactor] at h ⊢
  exact h

theorem tOff_bits : tOff = 0xC0476CCCCCCCCCCD := by decide +kernel

theorem tScale_bits : tScale = 0x4065F70A3D70A3D7 := by decide +kernel

theorem tOff_finite : f64Exp tOff ≠ 2047 := by
  rw [tOff_bits]
  decide

theorem tScale_finite : f64Exp tScale ≠ 2047 := by
  rw [tScale_bits]
  decide

theorem f64Value_tOff : f64Value tOff = -46.85000000000000142108547152020037174224853515625 := by decide +kernel

theorem f64Value_tScale : f64Value tScale = 175.719999999999998863131622783839702606201171875 := by decide +kernel

/-- Settles O20: the bits are evaluated, and the literals that are whole numbers are exact. -/
theorem constants : Obligations.Constants := by
  refine ⟨⟨by decide +kernel, rhOff_exact.2⟩, ⟨by decide +kernel, rhScale_exact.2⟩, ⟨tOff_bits, f64Value_tOff⟩,
    ⟨tScale_bits, f64Value_tScale⟩, ⟨by decide +kernel, ?_⟩, ?_, ?_⟩
  · rw [divisor_exact.2]
    norm_num
  · rw [f64Value_tOff]
    norm_num
  · rw [f64Value_tScale]
    norm_num

/-! ### The raw code and the quotient (R84, R85) -/

theorem toF64_exact {n : Nat} (hn : n < 2 ^ 53) : f64Exp (toF64 n) ≠ 2047 ∧ f64Value (toF64 n) = n :=
  (isRoundingOf_toF64 n).exact (m := n) (k := 0) (by simp) (by rw [Nat.abs_cast]; exact_mod_cast hn) (by decide)

theorem toF64_raw_exact (raw : Raw) :
    f64Exp (toF64 raw.toNat) ≠ 2047 ∧ f64Value (toF64 raw.toNat) = raw.toNat :=
  toF64_exact (raw.isLt.trans (by decide))

theorem raw_cast_le (raw : Raw) : (raw.toNat : ℚ) ≤ 65535 := by
  have h := raw.isLt
  exact_mod_cast (by omega : raw.toNat ≤ 65535)

theorem one_le_raw_cast {raw : Raw} (h : raw ≠ 0) : (1 : ℚ) ≤ raw.toNat := by
  exact_mod_cast Nat.one_le_iff_ne_zero.mpr ((BitVec.toNat_ne_iff_ne (y := 0)).mpr h)

/-- Settles O21: an integer below 2^53 fits the places kept. -/
theorem toF64Exact : Obligations.ToF64Exact := by
  refine ⟨fun n hn => (toF64_exact hn).2, fun raw => ?_⟩
  rw [(toF64_raw_exact raw).2]
  exact ⟨rfl, Nat.cast_nonneg _, raw_cast_le raw⟩

theorem quotient_exact (raw : Raw) :
    f64Exp (quotient raw) ≠ 2047 ∧ f64Value (quotient raw) = (raw.toNat : ℚ) / 2 ^ 16 := by
  obtain ⟨hfin, hval⟩ := toF64_raw_exact raw
  obtain ⟨hdfin, hdval⟩ := divisor_exact
  have hround : IsRoundingOf (quotient raw) (f64Value (toF64 raw.toNat) / f64Value divisor) :=
    isRoundingOf_fdiv hfin hdfin (by rw [hdval]; norm_num)
  rw [hval, hdval] at hround
  have hlt : |(raw.toNat : ℤ)| < 2 ^ 53 := by
    have := raw.isLt
    rw [Nat.abs_cast]
    omega
  exact hround.exact (k := 16) (by rw [Int.cast_natCast]) hlt (by decide)

theorem f64IsNormal_of_two_pow_neg_sixteen_le {v : Binary64} (hfin : f64Exp v ≠ 2047)
    (h : 1 / 2 ^ 16 ≤ |f64Value v|) : f64IsNormal v = true :=
  f64IsNormal_of_le_abs hfin ((one_div_pow_le_one_div_pow_of_le one_le_two (by decide)).trans h)

/-- A finite datum of a non-zero code, at least its quotient, is normal. -/
theorem f64IsNormal_of_quotient_le {raw : Raw} (hne : raw ≠ 0) {v : Binary64} (hfin : f64Exp v ≠ 2047)
    (h : (raw.toNat : ℚ) / 2 ^ 16 ≤ f64Value v) : f64IsNormal v = true := by
  have hone := one_le_raw_cast hne
  exact f64IsNormal_of_two_pow_neg_sixteen_le hfin (le_abs.mpr (.inl (by linarith)))

/-- Settles O22: the numerator is the raw code, and dividing by 2^16 keeps all its bits. -/
theorem quotientExact : Obligations.QuotientExact := by
  intro raw
  obtain ⟨hfin, hval⟩ := quotient_exact raw
  have hle := raw_cast_le raw
  refine ⟨rfl, hval, ?_, ?_, fun hne => ⟨f64IsNormal_of_quotient_le hne hfin hval.ge, ?_⟩, ?_⟩
  · rw [hval]
    positivity
  · rw [hval]
    linarith
  · have hone := one_le_raw_cast hne
    rw [hval]
    linarith
  · have hcode : (1 : Raw).toNat = 1 := rfl
    rw [(quotient_exact 1).2, hcode, Nat.cast_one]

/-! ### Humidity (R87, R88) -/

theorem rhProduct_exact (raw : Raw) : f64Exp (fmul rhScale (quotient raw)) ≠ 2047 ∧
    f64Value (fmul rhScale (quotient raw)) = 125 * (raw.toNat : ℚ) / 2 ^ 16 := by
  obtain ⟨hqfin, hqval⟩ := quotient_exact raw
  obtain ⟨hsfin, hsval⟩ := rhScale_exact
  have hround := isRoundingOf_fmul hsfin hqfin
  rw [hsval, hqval, ← mul_div_assoc] at hround
  have hlt : |(125 * raw.toNat : ℤ)| < 2 ^ 53 := abs_lt.mpr (by have := raw.isLt; omega)
  exact hround.exact (k := 16) (by push_cast; rfl) hlt (by decide)

theorem rh_eq (raw : Raw) : rh raw = fadd rhOff (fmul rhScale (quotient raw)) := rfl

theorem isRoundingOf_rh (raw : Raw) : IsRoundingOf (rh raw) ((125 * (raw.toNat : ℚ) - 393216) / 65536) := by
  obtain ⟨hpfin, hpval⟩ := rhProduct_exact raw
  obtain ⟨hofin, hoval⟩ := rhOff_exact
  have hround := isRoundingOf_fadd hofin hpfin
  rw [hoval, hpval, ← rh_eq] at hround
  have hsum : (-6 : ℚ) + 125 * raw.toNat / 2 ^ 16 = (125 * raw.toNat - 393216) / 65536 := by ring
  rwa [hsum] at hround

theorem rh_exact (raw : Raw) :
    f64Exp (rh raw) ≠ 2047 ∧ f64Value (rh raw) = (125 * (raw.toNat : ℚ) - 393216) / 65536 := by
  have hlt : |(125 * raw.toNat - 393216 : ℤ)| < 2 ^ 53 := abs_lt.mpr (by have := raw.isLt; omega)
  exact (isRoundingOf_rh raw).exact (k := 16) (by push_cast; norm_num) hlt (by decide)

/-- 125 does not divide 393216. -/
theorem rh_ne_zero (raw : Raw) : (125 * (raw.toNat : ℚ) - 393216) / 65536 ≠ 0 := by
  have h : (125 * raw.toNat - 393216 : ℤ) ≠ 0 := by omega
  exact div_ne_zero (by exact_mod_cast h) (by norm_num)

/-- A whole number over a denominator is rounded with the sign and the absolute value of the number. -/
theorem isRoundingOf_int_div (d : ℤ) {den : Nat} (hden : 0 < den) :
    IsRoundingOf (roundF64 (decide (d < 0)) (d.natAbs * f64Unit) den) (d / den) := by
  refine ⟨_, _, den, hden, ?_, rfl⟩
  rw [exactValue_mul_unit, ← mul_div_assoc, Nat.cast_natAbs]
  congr 1
  exact_mod_cast signFactor_neg_mul_natAbs d

/-- Settles O23: product and sum are exact, and the sum, which is not zero, has one rounding only. -/
theorem rhExact : Obligations.RhExact := by
  intro raw
  refine ⟨(rhProduct_exact raw).2, by have := raw.isLt; omega, (rh_exact raw).2, ?_⟩
  refine (isRoundingOf_rh raw).unique (rh_ne_zero raw) ?_
  have h := isRoundingOf_int_div (125 * (raw.toNat : ℤ) - 393216) (den := 65536) (by decide)
  push_cast at h
  exact h

theorem f64Value_rh_lt {raw : Raw} {n : Nat} {c : ℚ} (h : raw.toNat ≤ n) (hc : (125 * (n : ℚ) - 393216) / 65536 < c) :
    f64Value (rh raw) < c := by
  have hn : (raw.toNat : ℚ) ≤ n := Nat.cast_le.mpr h
  rw [(rh_exact raw).2]
  linarith

theorem lt_f64Value_rh {raw : Raw} {n : Nat} {c : ℚ} (h : n ≤ raw.toNat) (hc : c < (125 * (n : ℚ) - 393216) / 65536) :
    c < f64Value (rh raw) := by
  have hn : (n : ℚ) ≤ raw.toNat := Nat.cast_le.mpr h
  rw [(rh_exact raw).2]
  linarith

theorem f64Value_rh_lt_of_lt {a b : Raw} (h : a.toNat < b.toNat) : f64Value (rh a) < f64Value (rh b) := by
  rw [(rh_exact b).2]
  refine f64Value_rh_lt le_rfl ?_
  have hab : (a.toNat : ℚ) < b.toNat := Nat.cast_lt.mpr h
  linarith

theorem f64Value_rh_add_one {raw : Raw} (h : raw.toNat < 65535) :
    f64Value (rh (raw + 1)) = f64Value (rh raw) + 125 / 65536 := by
  have hsucc : (raw + 1).toNat = raw.toNat + 1 := by
    have hone : (1 : Raw).toNat = 1 := rfl
    rw [BitVec.toNat_add, hone]
    omega
  rw [(rh_exact _).2, (rh_exact raw).2, hsucc]
  push_cast
  ring

theorem exec_chkrh_good_ok (raw : Raw) (s : State) :
    ∃ t, exec (.chkrh (rawHigh raw) (rawLow raw) (crc8 raw)) s = .next t ∧ t.status = some .ok ∧
      t.value = some (rh raw) := by
  obtain ⟨t, ht, hregs⟩ := exec_chkrh_good raw s
  exact ⟨t, ht, congrArg Registers.status hregs, congrArg Registers.value hregs⟩

/-- A number below or above a bound on each side of a boundary code is not the bound. -/
theorem ne_of_boundary {x c : ℚ} {n k : Nat} (hlow : n ≤ k → x < c) (hhigh : k + 1 ≤ n → c < x) : x ≠ c := by
  rcases Nat.lt_or_ge k n with h | h
  · exact (hhigh h).ne'
  · exact (hlow h).ne

/-- Settles O24: humidity is linear in the code, so a bound holds from one code on. -/
theorem rhProperties : Obligations.RhProperties := by
  have hneg : ∀ raw : Raw, raw.toNat ≤ 3145 → f64Value (rh raw) < 0 := fun _ h => f64Value_rh_lt h (by norm_num)
  have hpos : ∀ raw : Raw, 3146 ≤ raw.toNat → 0 < f64Value (rh raw) := fun _ h => lt_f64Value_rh h (by norm_num)
  have hover : ∀ raw : Raw, 55575 ≤ raw.toNat → 100 < f64Value (rh raw) := fun _ h => lt_f64Value_rh h (by norm_num)
  have hunder : ∀ raw : Raw, raw.toNat ≤ 55574 → f64Value (rh raw) < 100 := fun _ h => f64Value_rh_lt h (by norm_num)
  refine ⟨⟨?_, ?_, by decide +kernel⟩, fun _ => f64Value_rh_add_one, fun _ _ => f64Value_rh_lt_of_lt,
    fun raw => ⟨hneg raw, hpos raw, ne_of_boundary (hneg raw) (hpos raw)⟩,
    fun raw => ⟨hover raw, hunder raw, ne_of_boundary (hunder raw) (hover raw)⟩,
    fun raw s _ => exec_chkrh_good_ok raw s⟩
  · have hcode : (0x0000 : Raw).toNat = 0 := rfl
    rw [(rh_exact _).2, hcode]
    norm_num
  · have hcode : (0xFFFF : Raw).toNat = 65535 := rfl
    rw [(rh_exact _).2, hcode]
    norm_num

/-! ### Temperature (R89 to R91) -/

/-- The temperature formula with the binary64 constants, unrounded (R90, its second item). -/
def tempUnrounded (n : Nat) : ℚ := f64Value tOff + f64Value tScale * (n / 2 ^ 16)

theorem tempUnrounded_eq (n : Nat) : tempUnrounded n = -46.85000000000000142108547152020037174224853515625
    + 175.719999999999998863131622783839702606201171875 * (n / 2 ^ 16) := by
  rw [tempUnrounded, f64Value_tOff, f64Value_tScale]

theorem tempUnrounded_mono {m n : Nat} (h : m ≤ n) : tempUnrounded m ≤ tempUnrounded n := by
  have hmn : (m : ℚ) ≤ n := Nat.cast_le.mpr h
  rw [tempUnrounded_eq, tempUnrounded_eq]
  linarith

theorem tempUnrounded_gap {m n : Nat} (h : m < n) : tempUnrounded m + 1 / 2 ^ 9 ≤ tempUnrounded n := by
  have hmn : (m : ℚ) + 1 ≤ n := by exact_mod_cast h
  rw [tempUnrounded_eq, tempUnrounded_eq]
  linarith

/-- The product is below 2^8, so rounding moves it by 2^-46 at most. -/
theorem tempProduct_near (raw : Raw) : f64Exp (fmul tScale (quotient raw)) ≠ 2047 ∧
    |f64Value (fmul tScale (quotient raw)) - f64Value tScale * ((raw.toNat : ℚ) / 2 ^ 16)| ≤ 1 / 2 ^ 46 := by
  obtain ⟨hqfin, hqval⟩ := quotient_exact raw
  have hround := isRoundingOf_fmul tScale_finite hqfin
  rw [hqval] at hround
  have hlt : |f64Value tScale * ((raw.toNat : ℚ) / 2 ^ 16)| < 2 ^ 8 := by
    have hle := raw_cast_le raw
    have hnonneg : (0 : ℚ) ≤ raw.toNat := Nat.cast_nonneg _
    rw [f64Value_tScale]
    exact abs_lt.mpr ⟨by linarith, by linarith⟩
  obtain ⟨hfin, hnear⟩ := hround.near (by decide) hlt
  exact ⟨hfin, hnear.trans_eq (by norm_num)⟩

theorem temp_eq (raw : Raw) : temp raw = fadd tOff (fmul tScale (quotient raw)) := rfl

/-- The sum is below 2^8 too: the two roundings together move the result by 2^-45 at most. -/
theorem temp_near (raw : Raw) : f64Exp (temp raw) ≠ 2047 ∧
    |f64Value (temp raw) - tempUnrounded raw.toNat| ≤ 1 / 2 ^ 45 := by
  obtain ⟨hpfin, hpnear⟩ := tempProduct_near raw
  have hround := isRoundingOf_fadd tOff_finite hpfin
  rw [← temp_eq] at hround
  obtain ⟨hplow, hphigh⟩ := abs_le.mp hpnear
  rw [tempUnrounded]
  generalize f64Value (fmul tScale (quotient raw)) = p at *
  have hlt : |f64Value tOff + p| < 2 ^ 8 := by
    have hle := raw_cast_le raw
    have hnonneg : (0 : ℚ) ≤ raw.toNat := Nat.cast_nonneg _
    rw [f64Value_tScale] at hplow hphigh
    rw [f64Value_tOff]
    exact abs_lt.mpr ⟨by linarith, by linarith⟩
  obtain ⟨hfin, hnear⟩ := hround.near (by decide) hlt
  obtain ⟨hlow, hhigh⟩ := abs_le.mp hnear
  exact ⟨hfin, abs_le.mpr ⟨by linarith, by linarith⟩⟩

theorem f64Value_temp_lt {raw : Raw} {n : Nat} {c : ℚ} (h : raw.toNat ≤ n) (hc : tempUnrounded n + 1 / 2 ^ 45 < c) :
    f64Value (temp raw) < c := by
  have hmono := tempUnrounded_mono h
  have hnear := (abs_le.mp (temp_near raw).2).2
  linarith

theorem lt_f64Value_temp {raw : Raw} {n : Nat} {c : ℚ} (h : n ≤ raw.toNat) (hc : c < tempUnrounded n - 1 / 2 ^ 45) :
    c < f64Value (temp raw) := by
  have hmono := tempUnrounded_mono h
  have hnear := (abs_le.mp (temp_near raw).2).1
  linarith

/-- The step of one code is larger than the error of both neighbours. -/
theorem f64Value_temp_lt_of_lt {a b : Raw} (h : a.toNat < b.toNat) : f64Value (temp a) < f64Value (temp b) := by
  refine f64Value_temp_lt le_rfl ?_
  have hgap := tempUnrounded_gap h
  have hnear := (abs_le.mp (temp_near b).2).1
  linarith

theorem temp_zero : temp 0x0000 = tOff := by decide +kernel

/-- Just below zero the temperature is further from it than R92 asks. -/
theorem f64Value_temp_lt_of_le_0x4441 {raw : Raw} (h : raw.toNat ≤ 0x4441) : f64Value (temp raw) < -0.000092163 :=
  f64Value_temp_lt h (by norm_num [tempUnrounded_eq])

theorem lt_f64Value_temp_of_0x4442_le {raw : Raw} (h : 0x4442 ≤ raw.toNat) : 0.000092163 < f64Value (temp raw) :=
  lt_f64Value_temp h (by norm_num [tempUnrounded_eq])

theorem f64Value_temp_lt_neg_forty {raw : Raw} (h : raw.toNat ≤ 2554) : f64Value (temp raw) < -40 :=
  f64Value_temp_lt h (by norm_num [tempUnrounded_eq])

theorem lt_f64Value_temp_125 {raw : Raw} (h : 64093 ≤ raw.toNat) : 125 < f64Value (temp raw) :=
  lt_f64Value_temp h (by norm_num [tempUnrounded_eq])

theorem exec_chkt_good_ok (raw : Raw) (s : State) :
    ∃ t, exec (.chkt (rawHigh raw) (rawLow raw) (crc8 raw)) s = .next t ∧ t.status = some .ok ∧
      t.value = some (temp raw) := by
  obtain ⟨t, ht, hregs⟩ := exec_chkt_good raw s
  exact ⟨t, ht, congrArg Registers.status hregs, congrArg Registers.value hregs⟩

/-- Settles O25: the unrounded formula decides each bound by more than the error, and the named data are evaluated. -/
theorem tempProperties : Obligations.TempProperties := by
  have hneg : ∀ raw : Raw, raw.toNat ≤ 0x4441 → f64Value (temp raw) < 0 :=
    fun _ h => (f64Value_temp_lt_of_le_0x4441 h).trans (by norm_num)
  have hpos : ∀ raw : Raw, 0x4442 ≤ raw.toNat → 0 < f64Value (temp raw) :=
    fun _ h => lt_trans (by norm_num) (lt_f64Value_temp_of_0x4442_le h)
  refine ⟨⟨temp_zero.trans tOff_bits, ?_, temp_zero, by decide +kernel⟩, ⟨by decide +kernel, by decide +kernel⟩,
    fun _ _ => f64Value_temp_lt_of_lt,
    ⟨fun raw => ⟨hneg raw, hpos raw, ne_of_boundary (hneg raw) (hpos raw)⟩, by decide +kernel, by decide +kernel⟩,
    fun _ => ⟨f64Value_temp_lt_neg_forty, lt_f64Value_temp_125⟩, fun raw s _ => exec_chkt_good_ok raw s⟩
  rw [temp_zero]
  exact f64Value_tOff

/-- Settles O27: both roundings are evaluated for the first seven codes. -/
theorem tempRoundsTwice : Obligations.TempRoundsTwice := by
  have hsame : ∀ n < 6, temp (BitVec.ofNat 16 n) = tempOnceRounded (BitVec.ofNat 16 n) := by decide +kernel
  refine ⟨by decide +kernel, by decide +kernel, fun raw h => ?_⟩
  simpa using hsame raw.toNat h

/-! ### Special values and ranges (R92 to R96) -/

theorem le_abs_f64Value_rh (raw : Raw) : 0.000518798828125 ≤ |f64Value (rh raw)| := by
  rw [(rh_exact raw).2]
  rcases Nat.lt_or_ge 3145 raw.toNat with h | h
  · have hge : (3146 : ℚ) ≤ raw.toNat := by exact_mod_cast h
    exact le_abs.mpr (.inl (by linarith))
  · have hle : (raw.toNat : ℚ) ≤ 3145 := by exact_mod_cast h
    exact le_abs.mpr (.inr (by linarith))

theorem le_abs_f64Value_temp (raw : Raw) : 0.000092163 ≤ |f64Value (temp raw)| := by
  rcases Nat.lt_or_ge 0x4441 raw.toNat with h | h
  · exact le_abs.mpr (.inl (lt_f64Value_temp_of_0x4442_le h).le)
  · exact le_abs.mpr (.inr (le_neg.mpr (f64Value_temp_lt_of_le_0x4441 h).le))

theorem f64Value_rh_range (raw : Raw) : -6 ≤ f64Value (rh raw) ∧ f64Value (rh raw) ≤ 118.9981 := by
  have hle := raw_cast_le raw
  have hnonneg : (0 : ℚ) ≤ raw.toNat := Nat.cast_nonneg _
  rw [(rh_exact raw).2]
  exact ⟨by linarith, by linarith⟩

/-- The lowest temperature is that of code 0, where nothing is rounded. -/
theorem f64Value_temp_range (raw : Raw) : f64Value tOff ≤ f64Value (temp raw) ∧ f64Value (temp raw) ≤ 128.8674 := by
  refine ⟨?_, (f64Value_temp_lt (n := 65535) (by have := raw.isLt; omega) (by norm_num [tempUnrounded_eq])).le⟩
  rw [← temp_zero]
  rcases Nat.eq_zero_or_pos raw.toNat with h | h
  · rw [BitVec.eq_of_toNat_eq (y := 0x0000) h]
  · exact (f64Value_temp_lt_of_lt (a := 0x0000) h).le

theorem f64IsNormal_rh (raw : Raw) : f64IsNormal (rh raw) = true :=
  f64IsNormal_of_two_pow_neg_sixteen_le (rh_exact raw).1 (le_trans (by norm_num) (le_abs_f64Value_rh raw))

theorem f64IsNormal_temp (raw : Raw) : f64IsNormal (temp raw) = true :=
  f64IsNormal_of_two_pow_neg_sixteen_le (temp_near raw).1 (le_trans (by norm_num) (le_abs_f64Value_temp raw))

/-- Of a code that is not zero, every intermediate result is at least the quotient. -/
theorem intermediates_normal {raw : Raw} (hne : raw ≠ 0) :
    f64IsNormal (toF64 raw.toNat) = true ∧ f64IsNormal (quotient raw) = true ∧
      f64IsNormal (fmul rhScale (quotient raw)) = true ∧ f64IsNormal (fmul tScale (quotient raw)) = true := by
  have hone := one_le_raw_cast hne
  obtain ⟨hfin, hval⟩ := toF64_raw_exact raw
  obtain ⟨hqfin, hqval⟩ := quotient_exact raw
  obtain ⟨hhfin, hhval⟩ := rhProduct_exact raw
  obtain ⟨htfin, htnear⟩ := tempProduct_near raw
  have htlow := (abs_le.mp htnear).1
  rw [f64Value_tScale] at htlow
  exact ⟨f64IsNormal_of_quotient_le hne hfin (by linarith), f64IsNormal_of_quotient_le hne hqfin hqval.ge,
    f64IsNormal_of_quotient_le hne hhfin (by linarith), f64IsNormal_of_quotient_le hne htfin (by linarith)⟩

/-- Settles O26: every value is finite and far above the subnormal numbers. -/
theorem resultsAreNormal : Obligations.ResultsAreNormal := by
  intro raw
  obtain ⟨hrlow, hrhigh⟩ := f64Value_rh_range raw
  obtain ⟨htlow, hthigh⟩ := f64Value_temp_range raw
  refine ⟨⟨f64IsNormal_rh raw, hrlow, hrhigh, le_abs_f64Value_rh raw⟩,
    ⟨f64IsNormal_temp raw, htlow, hthigh, le_abs_f64Value_temp raw⟩, intermediates_normal, ?_⟩
  rintro rfl
  decide +kernel

/-- Settles O36: a matched check writes the converted value, whichever range it lies in. -/
theorem passThrough : Obligations.PassThrough := by
  refine ⟨fun raw s => ⟨exec_chkrh_good_ok raw s, exec_chkt_good_ok raw s⟩, ⟨0, f64Value_rh_lt (n := 0) le_rfl ?_⟩,
    ⟨0xFFFF, lt_f64Value_rh (n := 0xFFFF) le_rfl ?_⟩, ⟨0, f64Value_temp_lt_neg_forty (by decide)⟩,
    ⟨0xFFFF, lt_f64Value_temp_125 (by decide)⟩, fun st => ?_⟩
  · norm_num
  · norm_num
  · cases st <;> decide

/-- Settles O28: the formulas are evaluated at 1.0, and the largest quotient is 65535/65536. -/
theorem formulasAtOne : Obligations.FormulasAtOne := by
  refine ⟨by decide +kernel, by decide +kernel, by decide +kernel, by decide +kernel, by decide +kernel,
    by decide +kernel, fun raw => ⟨raw.isLt.ne, ?_⟩⟩
  have hle := raw_cast_le raw
  rw [(quotient_exact raw).2]
  linarith

end Sys2Proof.Machine
end

section
/-! PROOFS. Requests (spec/42_requests.md R99 to R103): CHKRH, CHKT and an illegal request, whole. What either legal
request does is a fact about the check that both share; the two statements add the conversion's own values. -/

namespace Sys2Proof.Machine

/-! ### The two outcomes of a check (R98) -/

/-- The received byte decides the outcome. -/
theorem checkConvert_outcome (kind : Kind) (convert : Raw → Binary64) (raw : Raw) (crc : Byte) (s : State) :
    (crc8 raw ≠ crc → (checkConvert kind convert raw crc s).status = some .checksumError ∧
      (checkConvert kind convert raw crc s).value = none) ∧
    (crc8 raw = crc → (checkConvert kind convert raw crc s).status = some .ok ∧
      (checkConvert kind convert raw crc s).value = some (convert raw)) := by
  rcases checkConvert_cases kind convert raw crc s with ⟨hcrc, heq⟩ | ⟨hcrc, heq⟩
  · exact ⟨fun hne => absurd hcrc hne, fun _ => by rw [heq]; exact ⟨rfl, rfl⟩⟩
  · exact ⟨fun _ => by rw [heq]; exact ⟨rfl, rfl⟩, fun h => absurd h hcrc⟩

theorem checkConvert_of_crc8_eq (kind : Kind) (convert : Raw → Binary64) {raw : Raw} {crc : Byte}
    (h : crc8 raw = crc) (s : State) : (checkConvert kind convert raw crc s).status = some .ok ∧
      (checkConvert kind convert raw crc s).value = some (convert raw) :=
  (checkConvert_outcome kind convert raw crc s).2 h

theorem checkConvert_status_ok_iff (kind : Kind) (convert : Raw → Binary64) (raw : Raw) (crc : Byte) (s : State) :
    (checkConvert kind convert raw crc s).status = some .ok ↔ crc8 raw = crc := by
  refine ⟨fun hok => ?_, fun h => (checkConvert_of_crc8_eq kind convert h s).1⟩
  by_contra hne
  cases hok.symm.trans (checkConvert_status_of_ne kind convert hne s)

/-! ### The codes of the corner cases and of the examples (R99, R100) -/

theorem crc8_rawCode_zero : crc8 (rawCode 0x00 0x00) = 0x00 := crc8_zero

theorem crc8_rawCode_ones : crc8 (rawCode 0xFF 0xFF) = 0x2D := by
  obtain ⟨-, -, -, -, -, hones, -, -⟩ := crcProperties
  exact hones

theorem crc8_0x683A : crc8 0x683A = 0x7C := by decide +kernel

/-- The lowest humidity is the offset itself, whose product is zero. -/
theorem rh_zero : rh 0x0000 = 0xC018000000000000 := by decide +kernel

theorem rh_ones : rh 0xFFFF = 0x405DBFE0C0000000 := by
  obtain ⟨⟨-, -, hones⟩, -⟩ := rhProperties
  exact hones

theorem rh_0x683A : rh 0x683A = 0x4046722900000000 := by decide +kernel

theorem temp_ones : temp 0xFFFF = 0x40601BC113333333 := by
  obtain ⟨-, ⟨hones, -⟩, -⟩ := tempProperties
  exact hones

theorem temp_0x683A : temp 0x683A = 0x4038B11770A3D70A := by decide +kernel

/-- The example of R99, with the converted value evaluated. -/
theorem acceptRequest_chkrh_example (s : State) : ∃ t, acceptRequest 0xE5683A7C s = .next t ∧
    registers t = ⟨some .ok, some .humidity, some 0x683A, some 0x7C, some 0x4046722900000000⟩ := by
  obtain ⟨t, ht, hregs⟩ := exec_chkrh_good 0x683A s
  rw [crc8_0x683A] at ht hregs
  rw [rh_0x683A] at hregs
  exact ⟨t, (acceptRequest_encode (.chkrh 0x68 0x3A 0x7C) s).trans ht, hregs⟩

/-- The example of R100: the same operands, converted to a temperature. -/
theorem acceptRequest_chkt_example (s : State) : ∃ t, acceptRequest 0xE3683A7C s = .next t ∧
    registers t = ⟨some .ok, some .temperature, some 0x683A, some 0x7C, some 0x4038B11770A3D70A⟩ := by
  obtain ⟨t, ht, hregs⟩ := exec_chkt_good 0x683A s
  rw [crc8_0x683A] at ht hregs
  rw [temp_0x683A] at hregs
  exact ⟨t, (acceptRequest_encode (.chkt 0x68 0x3A 0x7C) s).trans ht, hregs⟩

/-! ### The legal requests (R99, R100, R102) -/

/-- Settles O29: both outcomes are those of the check, and humidity is linear in the raw code. -/
theorem chkrhResult : Obligations.ChkrhResult := by
  refine ⟨fun msb lsb crc s => ?_, fun s => ?_, fun crc s => ?_, fun raw s => ?_, fun msb lsb crc s s' => ?_,
    assemble_chkrh (by decide) (by decide) (by decide), acceptRequest_chkrh_example⟩
  · have hchecked : CheckedTo .humidity (rawCode msb lsb) s _ := checkedTo_checkConvert rfl crc s
    obtain ⟨hfail, hpass⟩ := checkConvert_outcome .humidity rh (rawCode msb lsb) crc s
    exact ⟨rfl, decode_encode _, _, exec_chkrh .., hchecked.kind_eq, hchecked.raw_eq, hchecked.crcCalc_eq, hfail,
      hpass, hchecked.inputs_eq, hchecked.answers_eq⟩
  · obtain ⟨hstatus, hvalue⟩ := checkConvert_of_crc8_eq .humidity rh crc8_rawCode_zero s
    exact ⟨_, exec_chkrh .., hstatus, hvalue.trans (congrArg some rh_zero)⟩
  · refine ⟨_, exec_chkrh .., ?_, fun hcrc => ?_⟩
    · rw [checkConvert_status_ok_iff, crc8_rawCode_ones, eq_comm]
    · have hvalue := (checkConvert_of_crc8_eq .humidity rh (crc8_rawCode_ones.trans hcrc.symm) s).2
      exact hvalue.trans (congrArg some rh_ones)
  · obtain ⟨t, ht, hstatus, hvalue⟩ := exec_chkrh_good_ok raw s
    exact ⟨t, ht, hstatus, hvalue, fun h => f64Value_rh_lt h (by norm_num), fun h => lt_f64Value_rh h (by norm_num)⟩
  · exact ⟨_, _, exec_chkrh .., exec_chkrh .., registers_checkConvert_eq ..⟩

/-- Settles O30: both outcomes are those of the check, and code 6 shows that the chain rounds twice. -/
theorem chktResult : Obligations.ChktResult := by
  refine ⟨fun msb lsb crc s => ?_, fun s => ?_, fun s => ?_, fun raw s => ?_, fun _ => rfl, ?_,
    assemble_chkt (by decide) (by decide) (by decide), acceptRequest_chkt_example⟩
  · have hchecked : CheckedTo .temperature (rawCode msb lsb) s _ := checkedTo_checkConvert rfl crc s
    obtain ⟨hfail, hpass⟩ := checkConvert_outcome .temperature temp (rawCode msb lsb) crc s
    exact ⟨rfl, decode_encode _, _, exec_chkt .., hchecked.kind_eq, hchecked.raw_eq, hchecked.crcCalc_eq, hfail,
      hpass, hchecked.inputs_eq, hchecked.answers_eq⟩
  · obtain ⟨hstatus, hvalue⟩ := checkConvert_of_crc8_eq .temperature temp crc8_rawCode_zero s
    exact ⟨_, exec_chkt .., hstatus, hvalue.trans (congrArg some (temp_zero.trans tOff_bits))⟩
  · obtain ⟨hstatus, hvalue⟩ := checkConvert_of_crc8_eq .temperature temp crc8_rawCode_ones s
    exact ⟨_, exec_chkt .., hstatus, hvalue.trans (congrArg some temp_ones)⟩
  · obtain ⟨t, ht, hstatus, hvalue⟩ := exec_chkt_good_ok raw s
    exact ⟨t, ht, hstatus, hvalue, f64Value_temp_lt_neg_forty, lt_f64Value_temp_125⟩
  · obtain ⟨htwice, honce, -⟩ := tempRoundsTwice
    rw [htwice, honce]
    decide

theorem booted_of_acceptRequest_legal {w : Word} {i : Instr} (hw : decode w = .legal i) {s t : State}
    (h : acceptRequest w s = .next t) : Booted t := by
  obtain ⟨kind, raw, -, hchecked⟩ := checkedTo_of_exec ((acceptRequest_legal hw s).symm.trans h)
  exact hchecked.booted

/-- Settles O32: a check writes its registers from the operands, and no cell is left empty but VALUE. -/
theorem legalIndependent : Obligations.LegalIndependent := by
  intro w i s s' hw
  obtain ⟨t, ht⟩ := acceptRequest_next w s
  obtain ⟨t', ht'⟩ := acceptRequest_next w s'
  exact ⟨t, t', ht, ht', registers_eq_of_acceptRequest_legal hw ht ht', booted_of_acceptRequest_legal hw ht⟩

/-! ### The illegal request (R101) -/

/-- Settles O31: the decoder rejects the selector, so the operands are not looked at; the example's CHKRH before it
leaves the three registers that stay. -/
theorem illegalResult : Obligations.IllegalResult := by
  have hword : ∀ (w : Word) (s : State), w.extractLsb' 24 8 ≠ 0xE5 → w.extractLsb' 24 8 ≠ 0xE3 →
      acceptRequest w s = .next { s with status := some .illegalOp, value := none } := fun w s hrh ht =>
    acceptRequest_illegal (decode_of_opField_illegal hrh ht) s
  refine ⟨hword, fun op msb lsb crc s hop => ?_, fun w hrh ht => ⟨_, hword w powerUp hrh ht, rfl, rfl, rfl⟩,
    assemble_req 0xE7 0x68 0x3A 0x7C, fun s => ?_⟩
  · have hillegal : legalOp op = false := by rcases hop with rfl | rfl | rfl <;> rfl
    exact acceptRequest_illegal (decode_packRequest_of_illegalOp hillegal msb lsb crc) s
  · obtain ⟨t, ht, hregs⟩ := acceptRequest_chkrh_example s
    obtain ⟨-, hkind, hraw, hcrc, -⟩ := Registers.mk.inj hregs
    refine ⟨t, _, ht, hword 0xE7683A7C t (by decide) (by decide), ?_⟩
    simp [registers, hkind, hraw, hcrc]

/-! ### One outcome (R103) -/

/-- Settles O34: a legal request has one of the two outcomes of the check, and the converted value is one. -/
theorem oneOutcome : Obligations.OneOutcome := by
  intro w s
  rcases acceptRequest_cases w s with ⟨i, heq⟩ | heq
  · obtain ⟨t, kind, raw, ht, hkind, hchecked⟩ := exec_checkedTo i s
    refine ⟨t, heq.trans ht, ?_⟩
    rcases hchecked.outcome with ⟨hstatus, hvalue⟩ | hfail
    · exact .inl ⟨hstatus, hvalue ▸ converted_ne_none hkind raw⟩
    · exact .inr (.inl hfail)
  · exact ⟨_, heq, .inr (.inr ⟨rfl, rfl⟩)⟩

end Sys2Proof.Machine
end

section
/-! PROOFS. Exceptions (spec/60_exceptions.md R109, R113): the order of a request's checks, which reads raise a model
fault, and that a recorded fault stays. -/

namespace Sys2Proof.Machine

/-! ### The order of the checks (R109) -/

theorem legalOp_eq_true_iff (op : Byte) : legalOp op = true ↔ op = opChkrh ∨ op = opChkt := by
  simp [legalOp, opChkrh, opChkt]

/-- A legal selector leads to the check, with a conversion whose results are normal numbers. -/
theorem acceptRequest_packRequest_of_legalOp {op : Byte} (h : legalOp op = true) (msb lsb crc : Byte) (s : State) :
    ∃ kind convert, (∀ raw, f64IsNormal (convert raw) = true) ∧
      acceptRequest (packRequest op msb lsb crc) s = .next (checkConvert kind convert (rawCode msb lsb) crc s) := by
  rcases (legalOp_eq_true_iff op).mp h with rfl | rfl
  · exact ⟨.humidity, rh, f64IsNormal_rh, acceptRequest_encode (.chkrh msb lsb crc) s⟩
  · exact ⟨.temperature, temp, f64IsNormal_temp, acceptRequest_encode (.chkt msb lsb crc) s⟩

/-- Settles O35: the decoder looks at the selector alone, and only behind it does the CRC decide the outcome. -/
theorem checkPrecedence : Obligations.CheckPrecedence := by
  intro op msb lsb crc s
  cases hop : legalOp op with
  | false =>
    have haccept := acceptRequest_illegal (decode_packRequest_of_illegalOp hop msb lsb crc) s
    exact ⟨_, haccept, fun _ => ⟨rfl, rfl⟩, nofun, nofun⟩
  | true =>
    obtain ⟨kind, convert, hnormal, haccept⟩ := acceptRequest_packRequest_of_legalOp hop msb lsb crc s
    obtain ⟨hfail, hpass⟩ := checkConvert_outcome kind convert (rawCode msb lsb) crc s
    refine ⟨_, haccept, nofun, fun _ hne => (hfail hne).1, fun _ heq => ?_⟩
    obtain ⟨hstatus, hvalue⟩ := hpass heq
    exact ⟨hstatus, _, hvalue, hnormal _⟩

/-! ### The reads that raise a fault (R113) -/

/-- A read that answers a cell's value, or a fault where the cell is empty, raises that fault and no other. -/
theorem elim_fault_eq_fault_iff {α : Type} {answer : α → Answer} (hanswer : ∀ v f, answer v ≠ .fault f)
    (cell : Option α) (f f' : Fault) : cell.elim (.fault f) answer = .fault f' ↔ cell = none ∧ f = f' := by
  cases cell with
  | none => simp
  | some v => simp [hanswer]

theorem readReg_status_eq_unreset_iff (s : State) : readReg .status s = .fault .unreset ↔ s.status = none := by
  rw [readReg_status, elim_fault_eq_fault_iff nofun, and_iff_left rfl]

theorem readReg_kind_eq_unreset_iff (s : State) : readReg .kind s = .fault .unreset ↔ s.kind = none := by
  rw [readReg_kind, elim_fault_eq_fault_iff nofun, and_iff_left rfl]

theorem readReg_raw_eq_unreset_iff (s : State) : readReg .raw s = .fault .unreset ↔ s.raw = none := by
  rw [readReg_raw, elim_fault_eq_fault_iff nofun, and_iff_left rfl]

theorem readReg_crcCalc_eq_unreset_iff (s : State) : readReg .crcCalc s = .fault .unreset ↔ s.crcCalc = none := by
  rw [readReg_crcCalc, elim_fault_eq_fault_iff nofun, and_iff_left rfl]

theorem readReg_value_eq_fault_iff (s : State) (f : Fault) :
    readReg .value s = .fault f ↔ s.value = none ∧ valueFault s = f := by
  rw [readReg_value, elim_fault_eq_fault_iff nofun]

theorem valueFault_eq_unreset_iff (s : State) : valueFault s = .unreset ↔ s.status = none := by
  simp [valueFault_eq]

theorem valueFault_eq_valueUnset_iff (s : State) : valueFault s = .valueUnset ↔ s.status ≠ none := by
  simp [valueFault_eq]

/-- Item 1 of R35, for the empty VALUE. -/
theorem Inv.value_eq_none_iff {s : State} (h : Inv s) : s.value = none ↔ s.status ≠ some .ok :=
  (not_iff_comm.mp h.value_iff_ok).symm

/-- Settles O45: VALUE is empty exactly when STATUS is not OK, and a written STATUS makes its fault `ValueUnset`. -/
theorem valueUnsetReads : Obligations.ValueUnsetReads := by
  intro s hinv st hst
  refine ⟨?_, ?_⟩
  · rw [readReg_value_eq_fault_iff, valueFault_eq_valueUnset_iff, hinv.value_eq_none_iff]
    simp [hst]
  · rintro rfl
    obtain ⟨v, hv⟩ := Option.ne_none_iff_exists'.mp (hinv.value_iff_ok.mpr hst)
    exact ⟨v, by simp [readReg_value, hv]⟩

/-- Settles O46: of VALUE's two faults an unwritten STATUS selects `Unreset`, and VALUE is then empty. -/
theorem unresetReads : Obligations.UnresetReads := by
  rintro s ⟨-, -, hunwritten⟩
  refine ⟨readReg_status_eq_unreset_iff s, readReg_kind_eq_unreset_iff s, readReg_raw_eq_unreset_iff s,
    readReg_crcCalc_eq_unreset_iff s, ?_⟩
  rw [readReg_value_eq_fault_iff, valueFault_eq_unreset_iff]
  exact and_iff_right_of_imp fun hstatus => (hunwritten hstatus).2

/-! ### Recorded faults (R113) -/

theorem acceptRequest_answers {w : Word} {s t : State} (h : acceptRequest w s = .next t) : t.answers = s.answers := by
  rcases acceptRequest_cases w s with ⟨i, heq⟩ | heq
  · obtain ⟨kind, raw, -, hchecked⟩ := checkedTo_of_exec (heq.symm.trans h)
    exact hchecked.answers_eq
  · obtain rfl := Host.Outcome.next.inj (heq.symm.trans h)
    rfl

/-- A step adds one answer, of a read, or none. -/
theorem step_answers_cases {s t : State} (h : step s = .next t) :
    t.answers = s.answers ∨
    ∃ r rest, s.inputs = .read r :: rest ∧ t.answers = s.answers ++ [readReg r s] := by
  rcases step_cases s with ⟨-, heq⟩ | ⟨w, rest, -, heq⟩ | ⟨rest, -, heq⟩ | ⟨r, rest, hin, heq⟩
  · obtain rfl := Host.Outcome.next.inj (heq.symm.trans h)
    exact .inl rfl
  · exact .inl (acceptRequest_answers (s := { s with inputs := rest }) (heq.symm.trans h))
  · obtain rfl := Host.Outcome.next.inj (heq.symm.trans h)
    exact .inl rfl
  · obtain rfl := Host.Outcome.next.inj (heq.symm.trans h)
    exact .inr ⟨r, rest, hin, by rw [hostRead_answers, readReg_inputs_frame]⟩

theorem answers_prefix_of_step {s t : State} (h : step s = .next t) : s.answers <+: t.answers := by
  rcases step_answers_cases h with heq | ⟨r, rest, -, heq⟩
  · rw [heq]
  · rw [heq]
    exact List.prefix_append ..

/-- Settles O47: the faults are picked from the answers, which a step at most extends. -/
theorem faultsStayRecorded : Obligations.FaultsStayRecorded := by
  intro s t h
  have hkept := answers_prefix_of_step h
  refine ⟨hkept.filterMap answerFault, hkept, fun hnoread => ?_⟩
  rcases step_answers_cases h with heq | ⟨r, rest, hin, -⟩
  · exact heq
  · exact absurd hin (hnoread r rest)

end Sys2Proof.Machine
end

section
/-! PROOFS. Reset and hazards (spec/70_reset_and_hazards.md R121, R124, R125, R130): what the reset input writes, the
sensor's soft-reset command, that a booted block stays booted, and that a run ends after its last event. -/

namespace Sys2Proof.Machine

/-! ### The reset input and the soft-reset command (R121, R124) -/

theorem step_of_inputs_reset {s : State} {rest : List HostEvent} (h : s.inputs = .reset :: rest) :
    step s = .next (assertReset { s with inputs := rest }) :=
  step_of_inputs_cons h

theorem step_of_inputs_request {s : State} {w : Word} {rest : List HostEvent} (h : s.inputs = .request w :: rest) :
    step s = acceptRequest w { s with inputs := rest } :=
  step_of_inputs_cons h

/-- A reset writes constants, so a second one finds them written. -/
theorem assertReset_assertReset (s : State) : assertReset (assertReset s) = assertReset s :=
  assertReset_eq_of_eq rfl rfl

/-- Settles O40: the step is `assertReset` itself, and the request behind the reset is the next event. -/
theorem resetInput : Obligations.ResetInput := by
  refine ⟨fun s rest h => step_of_inputs_reset h, ⟨rfl, rfl⟩,
    fun s => ⟨registers_assertReset s, assertReset_assertReset s⟩, fun s w rest h => ?_⟩
  obtain ⟨u, hu⟩ := acceptRequest_next w { assertReset s with inputs := rest }
  exact ⟨_, u, step_of_inputs_reset h, (step_of_inputs_request rfl).trans hu, hu⟩

/-- Settles O43: 0xFE is not a legal selector, so the step is that of an illegal request. -/
theorem softResetIsIllegal : Obligations.SoftResetIsIllegal := by
  intro msb lsb crc s rest hin
  have hop : legalOp 0xFE = false := by decide
  exact (step_of_inputs_request hin).trans (acceptRequest_illegal (decode_packRequest_of_illegalOp hop msb lsb crc) _)

/-! ### Booted blocks (R125) -/

theorem Booted.of_registers_eq {s t : State} (h : registers s = registers t) (hs : Booted s) : Booted t := by
  obtain ⟨hstatus, hkind, hraw, hcrc, -⟩ := (registers_eq_iff s t).mp h
  rwa [Booted, hstatus, hkind, hraw, hcrc] at hs

/-- An illegal request writes STATUS and leaves the other three cells. -/
theorem Booted.illegal {s : State} (h : Booted s) : Booted { s with status := some .illegalOp, value := none } := by
  obtain ⟨-, hkind, hraw, hcrc⟩ := h
  exact ⟨by simp, hkind, hraw, hcrc⟩

theorem booted_assertReset (s : State) : Booted (assertReset s) :=
  booted_reset.of_registers_eq (registers_assertReset s).symm

theorem Booted.of_step {s t : State} (hs : Booted s) (h : step s = .next t) : Booted t := by
  refine step_keeps (fun _ _ => Booted.of_registers_eq) booted_reset (fun i s t hexec => ?_) (fun _ => Booted.illegal)
    s t hs h
  obtain ⟨kind, raw, -, hchecked⟩ := checkedTo_of_exec hexec
  exact hchecked.booted

/-- Each read raises `Unreset` for an empty cell alone, a read of VALUE only while STATUS is empty too. -/
theorem Booted.readReg_ne_unreset {s : State} (h : Booted s) (r : RegName) : readReg r s ≠ .fault .unreset := by
  obtain ⟨hstatus, hkind, hraw, hcrc⟩ := h
  cases r with
  | status => exact mt (readReg_status_eq_unreset_iff s).mp hstatus
  | kind => exact mt (readReg_kind_eq_unreset_iff s).mp hkind
  | raw => exact mt (readReg_raw_eq_unreset_iff s).mp hraw
  | crcCalc => exact mt (readReg_crcCalc_eq_unreset_iff s).mp hcrc
  | value =>
    intro hread
    obtain ⟨-, hfault⟩ := (readReg_value_eq_fault_iff s .unreset).mp hread
    exact hstatus ((valueFault_eq_unreset_iff s).mp hfault)

/-- Settles O51: reset and legal requests write all four cells, and no event empties one. -/
theorem bootedStays : Obligations.BootedStays := by
  refine ⟨booted_assertReset, fun i s => ?_, fun _ _ => Booted.of_step, fun _ r h => h.readReg_ne_unreset r⟩
  obtain ⟨t, kind, raw, ht, -, hchecked⟩ := exec_checkedTo i s
  exact ⟨t, ht, hchecked.booted⟩

/-! ### The end of a run (R130) -/

/-- A property that every step keeps holds after every run. -/
theorem run_keeps {P : State → Prop} (hstep : ∀ s t, P s → step s = .next t → P t) {k : Nat} {s t : State}
    (hs : P s) (h : core.run k s = .next t) : P t := by
  induction k generalizing s with
  | zero =>
    obtain rfl : s = t := Host.Outcome.next.inj h
    exact hs
  | succ k ih =>
    obtain ⟨u, hu⟩ := step_next s
    rw [run_succ_of_step hu] at h
    exact ih (hstep s u hs hu) h

/-- A read adds one answer, a request and a reset add none. -/
theorem applyEvent_answers_length {e : HostEvent} {s t : State} (h : applyEvent e s = .next t) :
    t.answers.length = s.answers.length + [e].countP isRead := by
  cases e with
  | request w => rw [acceptRequest_answers h]; rfl
  | reset =>
    obtain rfl : assertReset s = t := Host.Outcome.next.inj h
    rfl
  | read r =>
    obtain rfl : hostRead r s = t := Host.Outcome.next.inj h
    simp [isRead]

/-- The step that takes a known event: the others stay pending, and a read is answered. -/
theorem step_takes_event {s : State} {e : HostEvent} {rest : List HostEvent} (hin : s.inputs = e :: rest) :
    ∃ t, step s = .next t ∧ t.inputs = rest ∧ t.answers.length = s.answers.length + [e].countP isRead := by
  obtain ⟨t, ht, htail⟩ := stepNeverStops s
  have happly : applyEvent e { s with inputs := rest } = .next t := (step_of_inputs_cons hin).symm.trans ht
  exact ⟨t, ht, by rw [htail, hin, List.tail_cons], applyEvent_answers_length (s := { s with inputs := rest }) happly⟩

/-- As many steps as there are events pending take them all. -/
theorem run_takes_all {es : List HostEvent} {s : State} (hin : s.inputs = es) :
    ∃ t, core.run es.length s = .next t ∧ t.inputs = [] ∧
      t.answers.length = s.answers.length + es.countP isRead := by
  induction es generalizing s with
  | nil => exact ⟨s, rfl, hin, rfl⟩
  | cons e rest ih =>
    obtain ⟨u, hu, hrest, hanswer⟩ := step_takes_event hin
    obtain ⟨t, ht, hnone, hanswers⟩ := ih hrest
    refine ⟨t, (run_succ_of_step hu rest.length).trans ht, hnone, ?_⟩
    calc t.answers.length
      _ = s.answers.length + ([e].countP isRead + rest.countP isRead) := by rw [hanswers, hanswer, Nat.add_assoc]
      _ = s.answers.length + (e :: rest).countP isRead := by rw [← List.countP_append, List.singleton_append]

/-- Settles O56: each step takes one event, and every step of the run of R130 keeps the invariants of power-up. -/
theorem runsEnd : Obligations.RunsEnd := by
  refine ⟨fun s => run_takes_all rfl, fun es => ?_⟩
  obtain ⟨t, ht, hnone, hanswers⟩ := run_takes_all (s := issue (.reset :: es) powerUp) rfl
  have hinv : Inv (issue (.reset :: es) powerUp) := inv_powerUp.of_registers_eq (registers_issue _ _).symm
  refine ⟨t, ht, hnone, ?_, run_keeps invariantKept hinv ht⟩
  simpa [powerUp, isRead] using hanswers

end Sys2Proof.Machine
end
